-- ==== Sys2Proof/Word.lean ====
section
/-! DEFINITION. The plain words of the MW412's links: bytes, wider fields, tags and labels. -/

namespace Sys2Proof

/-- One byte of the Handler Link (R166). -/
abbrev Byte := BitVec 8

/-- A two-byte field, for example LENGTH or a notice number (R166, R140). -/
abbrev Word16 := BitVec 16

/-- A four-byte field, for example an acceptance number or a bank generation (R41, R32). -/
abbrev Word32 := BitVec 32

/-- The host's number for a request, 0 to 255 (R39). -/
abbrev Tag := BitVec 8

/-- The text of a cartridge label: 1 to 16 characters, codes 20h to 7Eh (R7). -/
abbrev Label := List Byte

end Sys2Proof
end

