-- ==== Sys2Proof/Config.lean ====
section
/-! DEFINITION. What the part fixes (capacities, identity, fixed times) and the two free values the
manual leaves open (log entries 3 and 28). -/

namespace Sys2Proof.Config

/-- The queue holds at most 12 live entries (R42 step 4, R164). -/
abbrev queueCapacity : Nat := 12

/-- The notice queue holds at most 24 notices (R140). -/
abbrev noticeCapacity : Nat := 24

/-- A label has at most 16 characters (R7). -/
abbrev labelMax : Nat := 16

/-- The port has six cells, 0 to 5 (R1). -/
abbrev portCells : Nat := 6

/-- The base list holds at most 24 slots (R17). -/
abbrev baseMax : Nat := 24

/-- The grown list holds at most 16 entries (R19). -/
abbrev grownMax : Nat := 16

/-- The fewest slots a map may keep available (R28, R34). -/
abbrev minAvailable : Nat := 12

/-- A BODY has at most 240 bytes (R166). -/
abbrev bodyMax : Nat := 240

/-- The SYNC value (R176). -/
abbrev sync : Byte := 0xC3#8

/-- The length of a READ's stage timer in ms (R65). -/
abbrev readLimit : Nat := 1000

/-- DESCRIBE's identity code (R182). -/
abbrev identity : Word16 := 0x4D57#16

/-- DESCRIBE's design revision (R182). -/
abbrev revision : Byte := 0x03#8

/-- FREE VALUE (R38): whether the target bank of a commit that a loss of power interrupted still holds
its earlier copy (`true`) or is left invalid (`false`).  The manual allows both.  The argument is the
number of earlier such choices, `State.freeNext`. -/
opaque keepsEarlierCopy : Nat → Bool

/-- FREE VALUE (R113; log entry 28): whether RESET SOFT keeps the label of a bay in EJECTING that it derives
LOADED, as R113's last paragraph has it (`true`), or makes it absent because the state is not the state before,
as R113's list has it (`false`).  The manual says both, and a part does one of them. -/
opaque resetKeepsEjectingLabel : Bool

end Sys2Proof.Config
end

