-- ==== Sys2Proof/Syntax.lean ====
section
/-! DEFINITION. The commands of the MW412: one constructor for each row of spec/opcode_table.json, with
the operands the row needs. -/

namespace Sys2Proof

/-- Four like things, one for each of the four drive positions. -/
structure Quad (α : Type) where
  b0 : α
  b1 : α
  b2 : α
  b3 : α
  deriving DecidableEq, Repr

/-- The link rates of the link-rate strap, in bit/s (00_scope, Signals and straps). -/
inductive LinkRate where
  | r57600
  | r115200
  | r230400
  | r460800
  deriving DecidableEq, Repr

/-- The straps, read once at power-on (R1).  `slotGroup` is the position of the slot-count strap: it
stands for 24, 36, ..., 120 slots. -/
structure Straps where
  slotGroup : Fin 9
  bayCount : Fin 5
  rate : LinkRate
  deriving DecidableEq, Repr

/-- The levels of the drive lines whose every change is not an event of its own (R101): they are sampled
when an event that reads them is taken. -/
structure DriveLines where
  cartridge : Bool
  accepted : Bool
  ejectReady : Bool
  deriving DecidableEq, Repr

/-- The four input lines of one bay (R101). -/
structure DrivePins where
  present : Bool
  lines : DriveLines
  deriving DecidableEq, Repr

/-- The input pins whose levels the part reads: the drive lines, the door sensor and the gripper
sensor.  The emergency-stop input is the line state of the mode controller (R152). -/
structure Pins where
  drives : Quad DrivePins
  doorOpen : Bool
  gripper : Bool
  deriving DecidableEq, Repr

/-- The levels sampled while one event is taken: CARTRIDGE, ACCEPTED and EJECT_READY of every bay and
the gripper sensor (log entry 5). -/
structure Sense where
  drives : Quad DriveLines
  gripper : Bool
  deriving DecidableEq, Repr

/-- What the motion driver or the label reader may answer (R64). -/
inductive MechOutcome where
  | reached
  | held
  | noneFound
  | placed
  | done
  | occupied
  | empty
  | fault
  | label (text : List Byte)
  | noRead
  deriving DecidableEq, Repr

/-- The commands, one constructor for each row of the table.  A request row carries the SEQ and the
BODY of the frame that completed with a good check. -/
inductive Instr where
  /-- POWER_ON (R154): the straps, the input pins and the emergency-stop line as power comes up. -/
  | powerOn (straps : Straps) (pins : Pins) (stop : Bool)
  | describe (seq : Byte) (body : List Byte)
  | queryStatus (seq : Byte) (body : List Byte)
  | queryLocations (seq : Byte) (body : List Byte)
  | queryRequest (seq : Byte) (body : List Byte)
  | queryMap (seq : Byte) (body : List Byte)
  | move (seq : Byte) (body : List Byte)
  | scan (seq : Byte) (body : List Byte)
  | stow (seq : Byte) (body : List Byte)
  | confirm (seq : Byte) (body : List Byte)
  | divert (seq : Byte) (body : List Byte)
  | returnHome (seq : Byte) (body : List Byte)
  | cancel (seq : Byte) (body : List Byte)
  | abortAll (seq : Byte) (body : List Byte)
  | pause (seq : Byte) (body : List Byte)
  | resume (seq : Byte) (body : List Byte)
  | portUnlock (seq : Byte) (body : List Byte)
  | portLock (seq : Byte) (body : List Byte)
  | maintenanceEnter (seq : Byte) (body : List Byte)
  | maintenanceLeave (seq : Byte) (body : List Byte)
  | setExposed (seq : Byte) (body : List Byte)
  | retireSlot (seq : Byte) (body : List Byte)
  | consolidate (seq : Byte) (body : List Byte)
  | setParameters (seq : Byte) (body : List Byte)
  | noticeAck (seq : Byte) (body : List Byte)
  | recover (seq : Byte) (body : List Byte)
  /-- RESET with a level other than FULL (R162), with the lines as the reset samples them. -/
  | resetSoft (seq : Byte) (body : List Byte) (sense : Sense)
  /-- RESET with a level other than SOFT (R163). -/
  | resetFull (seq : Byte) (body : List Byte)
  | resetFullReload (sense : Sense)
  | unknownRequest (seq : Byte) (kind : Byte) (body : List Byte)
  /-- The bytes after SYNC of a complete frame whose check is bad (R168). -/
  | frameBadCheck (bytes : List Byte)
  /-- The LENGTH field that exceeded 240, and the bytes that came after it (R168, log entry 24). -/
  | frameLengthExceeded (length : Word16) (following : List Byte := [])
  /-- The byte that ended the gap, and the bytes that came after it (R168, log entry 24). -/
  | interByteGapTimeout (byte : Byte) (following : List Byte := [])
  | byteWithoutStopBit
  | frameSent
  | homeOutcome (number : Byte) (outcome : MechOutcome) (sense : Sense)
  | travelOutcome (number : Byte) (outcome : MechOutcome) (sense : Sense)
  | pickOutcome (number : Byte) (outcome : MechOutcome) (sense : Sense)
  | placeOutcome (number : Byte) (outcome : MechOutcome)
  | retractOutcome (number : Byte) (outcome : MechOutcome) (sense : Sense)
  | probeOutcome (number : Byte) (outcome : MechOutcome)
  | readOutcome (number : Byte) (outcome : MechOutcome)
  | parkOutcome (number : Byte) (outcome : MechOutcome)
  | unparkOutcome (number : Byte) (outcome : MechOutcome) (sense : Sense)
  | stageTimerExpiry (sense : Sense)
  | parkTimerExpiry
  | confirmTimerExpiry
  | loadTimerExpiry (bay : Fin 4)
  | ejectTimerExpiry (bay : Fin 4)
  | repeatTimerExpiry
  | presentRising (bay : Fin 4) (lines : DriveLines)
  | presentFalling (bay : Fin 4)
  | acceptedRising (bay : Fin 4)
  | ejectReadyRising (bay : Fin 4)
  /-- The falling of CARTRIDGE, with the level of ACCEPTED as it is taken (R110). -/
  | cartridgeFalling (bay : Fin 4) (accepted : Bool)
  | doorOpening
  | doorClosing
  | emergencyStopAsserted (sense : Sense)
  | emergencyStopReleased
  /-- A bank write finishes; `ok` when the bank reads back valid with the contents written (R35, R36). -/
  | bankWriteComplete (ok : Bool)
  /-- A byte with the sync value, and the bytes that came after it (R168, log entry 24). -/
  | syncReceived (following : List Byte := [])
  | powerLoss
  deriving DecidableEq, Repr

end Sys2Proof
end

