-- ==== Sys2Proof/Machine/State.lean ====
section
/-! DEFINITION. The state of the MW412, block by block as 00_scope's table of blocks lists it, the
reasons a command can stop (none is ever raised), and the state right after power-on. -/

namespace Sys2Proof.Machine

/-- No command of the MW412 stops with a fault: the manual gives every event an effect, if only to be
discarded.  The one constructor is raised by no meaning (safe). -/
inductive Fault where
  /-- Raised by no meaning (safe). -/
  | neverRaised
  deriving DecidableEq, Repr

/-- Reasons a command has no meaning. -/
inductive Refusal where
  /-- Raised by an arm of `exec` whose command has no meaning yet (safe); no arm raises it now. -/
  | notModelled (mnemonic : String)
  deriving DecidableEq, Repr

/-! ### Names the chapters share -/

/-- A location: its kind and its index within that kind (R1).  The gripper has the single index 0. -/
inductive Loc where
  | slot (n : Nat)
  | bay (n : Nat)
  | cell (n : Nat)
  | gripper
  deriving DecidableEq, Repr

/-- Occupancy (R7). -/
inductive Occ where
  | empty
  | occupied
  | unknown
  deriving DecidableEq, Repr

/-- The kinds of request that become entries (R39). -/
inductive ReqKind where
  | move
  | scan
  | stow
  deriving DecidableEq, Repr

/-- What an entry in WAITING_DRIVE waits for (R39). -/
inductive DriveWait where
  | eject
  | load
  deriving DecidableEq, Repr

/-- The states of a request entry (R39); the drive wait is present in WAITING_DRIVE alone. -/
inductive EntryState where
  | queued
  | waitingDrive (w : DriveWait)
  | waitingPort
  | running
  | awaitingConfirm
  | done
  deriving DecidableEq, Repr

/-- The completion results, in code order (R185). -/
inductive Result where
  | ok
  | sourceEmpty
  | destinationFull
  | locationUnknown
  | destinationRetired
  | gripFailed
  | placeFailed
  | placeFailedHeld
  | driveNoEject
  | driveNoAccept
  | driveRejected
  | driveRemoved
  | cancelled
  | aborted
  | returned
  | verifyTimeout
  | stopped
  | mechanismFault
  | portDisturbed
  deriving DecidableEq, Repr

/-- The range kinds of a SCAN (R128). -/
inductive RangeKind where
  | logical
  | physical
  | bays
  | port
  | all
  deriving DecidableEq, Repr

/-- The library modes (R152). -/
inductive LibMode where
  | initializing
  | ready
  | maintenance
  | holding
  | stopped
  | faulted
  deriving DecidableEq, Repr

/-- The return modes (R152). -/
inductive ReturnMode where
  | ready
  | maintenance
  deriving DecidableEq, Repr

/-- The causes of a MODE_CHANGED (R153). -/
inductive ModeCause where
  | start
  | homed
  | homingFailed
  | maintenanceRequest
  | noHome
  | stowed
  | stopLine
  | recover
  | mechanism
  | reset
  deriving DecidableEq, Repr

/-- The picker states (R68). -/
inductive Picker where
  | unhomed
  | homing
  | idle
  | busy
  | parking
  | parked
  deriving DecidableEq, Repr

/-- The port states (R115). -/
inductive PortState where
  | secured
  | released
  | opened
  | closed
  | auditPending
  deriving DecidableEq, Repr

/-- The audit mark (R115). -/
inductive AuditMark where
  | noMark
  | pending
  | running
  deriving DecidableEq, Repr

/-- The bay states (R100). -/
inductive BayState where
  | absent
  | empty
  | loading
  | loaded
  | ejecting
  | ejected
  deriving DecidableEq, Repr

/-- The two banks of the map store (R32). -/
inductive BankId where
  | bank0
  | bank1
  deriving DecidableEq, Repr

/-- Why a slot was retired (R26). -/
inductive RetireCause where
  | faults
  | request
  deriving DecidableEq, Repr

/-! ### The inventory (chapter 1) -/

/-- What the inventory stores for a location (R7): the first four fields after the location itself. -/
structure PlaceRec where
  occ : Occ
  label : Option Label
  dup : Bool
  claims : List Tag
  deriving DecidableEq, Repr

/-- One record for each location (R1). -/
structure Inventory where
  slots : List PlaceRec
  bays : List PlaceRec
  cells : List PlaceRec
  gripper : PlaceRec
  deriving DecidableEq, Repr

/-! ### The slot map and the map store (chapter 2) -/

/-- An entry of the grown list (R19). -/
structure GrownEntry where
  slot : Nat
  logical : Option Nat
  substitute : Option Nat
  deriving DecidableEq, Repr

/-- The slot map's own state (R17, R18, R19, R21).  The current map is formed from it by R20. -/
structure SlotMap where
  base : List Nat
  grown : List GrownEntry
  exposed : Nat
  faults : List Nat
  deriving DecidableEq, Repr

/-- The parameters, in the order of R165's table.  Times are in the unit of that table. -/
structure Params where
  retries : Nat
  threshold : Nat
  stageLimit : Nat
  confirmLimit : Nat
  loadLimit : Nat
  ejectLimit : Nat
  parkDelay : Nat
  autoRelock : Bool
  repeatInterval : Nat
  deriving DecidableEq, Repr

/-- What one commit writes (R32, R35). -/
structure BankImage where
  generation : Word32
  base : List Nat
  grown : List GrownEntry
  exposed : Nat
  params : Params
  deriving DecidableEq, Repr

/-- A nonvolatile bank (R32).  The check value is held as whether it matches the contents (log entry 4):
the manual does not give its computation. -/
structure Bank where
  image : BankImage
  checkMatches : Bool
  deriving DecidableEq, Repr

/-- A commit in flight (R35, R36): its target, what it writes, whether its one retry is running, and the
target's contents before the write began, which a loss of power may leave standing (R38). -/
structure Commit where
  target : BankId
  image : BankImage
  retrying : Bool
  earlier : Bank
  deriving DecidableEq, Repr

/-- A deferred reply that waits on the map store (R37): the request's SEQ and KIND, and whether it waits
on the pending commit rather than on the one in flight. -/
structure ReplyWait where
  seq : Byte
  kind : Byte
  onPending : Bool
  deriving DecidableEq, Repr

/-- The map store (R32, R37). -/
structure Store where
  bank0 : Bank
  bank1 : Bank
  newest : Option BankId
  newestGen : Word32
  commit : Option Commit
  commitPending : Bool
  unsaved : Bool
  wait : Option ReplyWait
  deriving DecidableEq, Repr

/-! ### The request queue (chapter 3) -/

/-- A SCAN's range: as requested, and the resolved list (R39). -/
structure ScanRange where
  kind : RangeKind
  first : Byte
  last : Byte
  locs : List Loc
  deriving DecidableEq, Repr

/-- A SCAN's counts (R134). -/
structure ScanCounts where
  audited : Nat
  occupied : Nat
  changed : Nat
  firstNot : Option Loc
  deriving DecidableEq, Repr

/-- A request entry (R39).  `held` and `placed` are what the completion notice's label needs (R149):
whether the entry has held a cartridge, and the label carried into its last PLACE that returned
PLACED. -/
structure Entry where
  tag : Tag
  kind : ReqKind
  accNumber : Word32
  source : Option Loc
  dest : Option Loc
  expected : Option Label
  verify : Bool
  skipLabel : Bool
  scan : Option ScanRange
  state : EntryState
  labelRead : Option Label
  result : Option Result
  counts : Option ScanCounts
  noticeQueued : Bool
  held : Bool
  placed : Option (Option Label)
  deriving DecidableEq, Repr

/-- The request queue (R39, R41, R59): the live entries, oldest first, the hold flag and the acceptance
counter. -/
structure Queue where
  entries : List Entry
  hold : Bool
  accepted : Word32
  deriving DecidableEq, Repr

/-! ### The sequencer and the mechanism port (chapter 4) -/

/-- An interruption of a job (R74). -/
inductive Interruption where
  | stop
  | driveRemoved
  | portDisturbed
  deriving DecidableEq, Repr

/-- The cause with which the return path is taken (R81). -/
inductive Cause where
  | placeFailed
  | interrupted (i : Interruption)
  | returned
  | confirmTimeout
  deriving DecidableEq, Repr

/-- What a TRAVEL stage travels to. -/
inductive TravelTo where
  | source
  | dest
  | scan
  deriving DecidableEq, Repr

/-- What follows a HOME stage of a job (R69, R84). -/
inductive AfterHome where
  | firstProper
  | travelAgain (t : TravelTo)
  deriving DecidableEq, Repr

/-- What a RETRACT follows (R76, R78, R79). -/
inductive RetractAfter where
  | pickFault
  | pickNone
  | placed
  | placeFault
  deriving DecidableEq, Repr

/-- The stages of a job (R75, R86, R130, R71). -/
inductive Stage where
  | home (next : AfterHome)
  | unpark
  | travel (towards : TravelTo)
  | pick
  | identify
  | place
  | retract (after : RetractAfter)
  | probe
  | read
  | park
  deriving DecidableEq, Repr

/-- The order kinds (R64). -/
inductive OrderKind where
  | home
  | travel
  | pick
  | place
  | retract
  | probe
  | park
  | unpark
  | read
  deriving DecidableEq, Repr

/-- The running part of a SCAN or of the port audit (R130, R134): the current location, what is left of
the list, whether the current location is audited by orders, its before-values, and the counts so
far. -/
structure Audit where
  current : Loc
  rest : List Loc
  byOrders : Bool
  beforeOcc : Occ
  beforeLabel : Option Label
  audited : Nat
  occupied : Nat
  changed : Nat
  deriving DecidableEq, Repr

/-- What holds the picker (R51): an entry, or an internal job.  Homing carries whether its second
attempt is running (R155). -/
inductive JobKind where
  | entry (tag : Tag)
  | portAudit
  | homing (second : Bool)
  | parking
  deriving DecidableEq, Repr

/-- The current job (04, introduction).  `stage` is absent for an entry in AWAITING_CONFIRM, which holds
the picker with no stage in flight (R89). -/
structure Job where
  kind : JobKind
  stage : Option Stage
  onReturn : Option Cause
  retry : Nat
  keptRetries : Nat
  travelRetried : Bool
  interruption : Option Interruption
  audit : Option Audit
  deriving DecidableEq, Repr

/-- The sequencer (04, introduction; R91).  A timer is present while it runs, with the length it was
started with, in seconds. -/
structure Sequencer where
  job : Option Job
  picker : Picker
  parkTimer : Option Nat
  confirmTimer : Option Nat
  deriving DecidableEq, Repr

/-- The outstanding order (R64). -/
structure Order where
  number : Byte
  kind : OrderKind
  target : Option Loc
  deriving DecidableEq, Repr

/-- The mechanism port (R64, R65): the outstanding order, the number of the last order sent, and the
stage timer with its length in ms. -/
structure Mech where
  outstanding : Option Order
  lastNumber : Byte
  stageTimer : Option Nat
  deriving DecidableEq, Repr

/-! ### The bay monitor and the port controller (chapters 6 and 7) -/

/-- A bay record (R100).  The bay's label is the label of its location record (R8). -/
structure Bay where
  state : BayState
  eject : Bool
  loadTimer : Option Nat
  ejectTimer : Option Nat
  waiting : Option (Tag × DriveWait)
  loadResult : Option Result
  deriving DecidableEq, Repr

/-- The port controller (R115). -/
structure Port where
  state : PortState
  lock : Bool
  mark : AuditMark
  deriving DecidableEq, Repr

/-! ### Notices (chapter 9) -/

/-- A physical location with the logical number its slot shows, where it has one (R178). -/
structure LocView where
  loc : Loc
  logical : Option Nat
  deriving DecidableEq, Repr

/-- The attention kinds, in the order of section 9.6. -/
inductive AttnKind where
  | modeChanged
  | doorOpened
  | doorClosed
  | doorForced
  | portAudited
  | driveInserted
  | driveRemoved
  | driveEjected
  | slotRetired
  | logicalLost
  | mapFull
  | mapChanged
  | mapAdjusted
  | storeFault
  | storeDefaulted
  | duplicateLabel
  deriving DecidableEq, Repr

/-- An attention kind with the fields its rule gives (R184). -/
inductive Attention where
  | modeChanged (previous : Option LibMode) (new : LibMode) (ret : Option ReturnMode) (cause : ModeCause)
      (tag : Option Tag)
  | doorOpened (before : PortState)
  | doorClosed
  | doorForced (before : PortState) (auditRunning : Bool) (tags : List Tag)
  | portAudited (cells : List (Occ × Option Label))
  | driveInserted (bay : Nat) (state : BayState)
  | driveRemoved (bay : Nat) (before : BayState) (label : Option Label) (tag : Option Tag)
  | driveEjected (bay : Nat) (label : Option Label) (eject : Bool)
  | slotRetired (slot : Nat) (cause : RetireCause) (tag : Option Tag) (logical substitute : Option Nat)
      (occ : Occ) (label : Option Label)
  | logicalLost (logical : Nat) (slot : Nat)
  | mapFull (slot : Nat)
  | mapChanged (available exposed base grown : Nat)
  | mapAdjusted (available exposed base grown : Nat)
  | storeFault (bank : BankId) (generation : Word32)
  | storeDefaulted
  | duplicateLabel (label : Label) (loc : Loc) (holders : Nat)
  deriving DecidableEq, Repr

/-- The body of a notice, fixed when the notice is asked for (R139, R149). -/
inductive NoticeBody where
  | completionMove (tag : Tag) (kind : ReqKind) (accNumber : Word32) (result : Result)
      (source dest : Option LocView) (label expected : Option Label)
  | completionScan (tag : Tag) (accNumber : Word32) (result : Result) (kind : RangeKind)
      (first last : Byte) (audited occupied changed : Nat) (firstNot : Option LocView)
  | verify (tag : Tag) (source dest : Option LocView) (labelRead expected : Option Label)
  | attention (a : Attention)
  | summary (kinds : List AttnKind)
  deriving DecidableEq, Repr

/-- A notice in the notice queue (R139); it is also what a notice frame carries (R177). -/
structure Notice where
  number : Word16
  count : Nat
  body : NoticeBody
  deriving DecidableEq, Repr

/-- The notice queue, the admission list, the attention summary, the next notice number and the repeat
timer (09, introduction). -/
structure Notices where
  queue : List Notice
  admission : List NoticeBody
  summary : List AttnKind
  next : Word16
  repeatTimer : Option Nat
  deriving DecidableEq, Repr

/-! ### The mode controller and the link interface (chapters 10 and 11) -/

/-- The mode controller (R152). -/
structure ModeCtl where
  mode : LibMode
  ret : ReturnMode
  stopLine : Bool
  deriving DecidableEq, Repr

/-- A frame less its SYNC, LENGTH and CHECK, which follow from the rest (R166). -/
structure Frame where
  seq : Byte
  kind : Byte
  body : List Byte
  deriving DecidableEq, Repr

/-- A reply frame on the transmit list; `closesReset` marks the reply to RESET FULL, whose sending R174
waits for. -/
structure ReplyFrame where
  frame : Frame
  closesReset : Bool
  deriving DecidableEq, Repr

/-- A frame in course of sending (R172). -/
inductive TxFrame where
  | reply (f : ReplyFrame)
  | notice (n : Notice)
  deriving DecidableEq, Repr

/-- The receiver state (R168): hunting, or assembling with the bytes of the frame so far. -/
inductive Receiver where
  | hunting
  | assembling (bytes : List Byte)
  deriving DecidableEq, Repr

/-- RESET FULL has been taken and its interval has not ended (R174): which of the two events that end it
have been taken. -/
structure ResetWait where
  replySent : Bool
  reloaded : Bool
  deriving DecidableEq, Repr

/-- The link interface (11, introduction).  The transmit list is the frame in course of sending, the
waiting replies and the waiting notice frames. -/
structure Link where
  receiver : Receiver
  lastSeq : Option Byte
  cache : Option Frame
  replyPending : Bool
  sending : Option TxFrame
  replies : List ReplyFrame
  noticeFrames : List Notice
  resetWait : Option ResetWait
  deriving DecidableEq, Repr

/-! ### The machine -/

/-- The MW412.  `powered` is false between a loss of power and the next power-on.  `freeNext` is the
model's own counter for the free value of log entry 3.  `pending` is the queue of waiting commands. -/
structure State where
  powered : Bool
  straps : Straps
  pins : Pins
  link : Link
  queue : Queue
  inv : Inventory
  map : SlotMap
  store : Store
  params : Params
  seq : Sequencer
  mech : Mech
  bays : List Bay
  port : Port
  notices : Notices
  ctl : ModeCtl
  freeNext : Nat
  pending : List Instr
  deriving DecidableEq, Repr

/-! ### The values at power-on -/

/-- The default parameters (R165). -/
def Params.default : Params where
  retries := 2
  threshold := 3
  stageLimit := 5000
  confirmLimit := 60
  loadLimit := 60
  ejectLimit := 90
  parkDelay := 300
  autoRelock := true
  repeatInterval := 1000

/-- A location nothing is known about (R14). -/
def PlaceRec.notKnown : PlaceRec where
  occ := .unknown
  label := none
  dup := false
  claims := []

/-- A location that holds nothing. -/
def PlaceRec.vacant : PlaceRec where
  occ := .empty
  label := none
  dup := false
  claims := []

/-- A bank never written, as State.reset has both: the manual gives its contents no values.  The model's
choice is generation 0, empty lists, exposed count 0, the default parameters, and a check value that does not
match them, which makes the bank invalid (DESIGN CHOICE, log entry 1). -/
def Bank.blank : Bank where
  image := ⟨0, [], [], 0, Params.default⟩
  checkMatches := false

/-- A bay with no drive in it (R100). -/
def Bay.noDrive : Bay where
  state := .absent
  eject := false
  loadTimer := none
  ejectTimer := none
  waiting := none
  loadResult := none

/-- All drive lines low, the door closed and the gripper empty (log entry 1). -/
def Pins.quiet : Pins where
  drives := ⟨⟨false, ⟨false, false, false⟩⟩, ⟨false, ⟨false, false, false⟩⟩,
    ⟨false, ⟨false, false, false⟩⟩, ⟨false, ⟨false, false, false⟩⟩⟩
  doorOpen := false
  gripper := false

/-- The straps of the reset state: 48 slots, two bays, 115,200 bit/s (log entry 1). -/
def Straps.chosen : Straps where
  slotGroup := 2
  bayCount := 2
  rate := .r115200

/-- STORE_DEFAULTED, the first notice of a start with neither bank valid (R33, R150). -/
def Notice.defaultedAtStart : Notice where
  number := 0
  count := 1
  body := .attention .storeDefaulted

/-- MODE_CHANGED with cause START, the notice that follows it (R154, R150). -/
def Notice.modeAtStart : Notice where
  number := 1
  count := 1
  body := .attention (.modeChanged none .initializing none .start none)

/-- The machine right after power-on with the straps, pins and blank banks of log entry 1.  Every field
has the value the manual's power-on rules give it (R14, R33, R35, R61, R87, R112, R126, R150, R154,
R155, R173): the map is defaulted and its first commit is in flight, homing's first HOME is
outstanding, and the two notices of the start are queued, the first of them being sent. -/
def State.reset : State where
  powered := true
  straps := Straps.chosen
  pins := Pins.quiet
  link :=
    { receiver := .hunting, lastSeq := none, cache := none, replyPending := false,
      sending := some (.notice Notice.defaultedAtStart), replies := [],
      noticeFrames := [Notice.modeAtStart], resetWait := none }
  queue := { entries := [], hold := false, accepted := 0 }
  inv :=
    { slots := List.replicate 48 PlaceRec.notKnown, bays := List.replicate 2 PlaceRec.vacant,
      cells := List.replicate 6 PlaceRec.notKnown, gripper := PlaceRec.vacant }
  map := { base := [], grown := [], exposed := 44, faults := List.replicate 48 0 }
  store :=
    { bank0 := Bank.blank, bank1 := Bank.blank, newest := none, newestGen := 0,
      commit := some
        { target := .bank0, image := ⟨1, [], [], 44, Params.default⟩, retrying := false,
          earlier := Bank.blank },
      commitPending := false, unsaved := false, wait := none }
  params := Params.default
  seq :=
    { job := some
        { kind := .homing false, stage := some (.home .firstProper), onReturn := none, retry := 0,
          keptRetries := 0, travelRetried := false, interruption := none, audit := none },
      picker := .homing, parkTimer := none, confirmTimer := none }
  mech :=
    { outstanding := some { number := 1, kind := .home, target := none }, lastNumber := 1,
      stageTimer := some 20000 }
  bays := List.replicate 2 Bay.noDrive
  port := { state := .auditPending, lock := true, mark := .pending }
  notices :=
    { queue := [Notice.defaultedAtStart, Notice.modeAtStart], admission := [], summary := [],
      next := 2, repeatTimer := some 1000 }
  ctl := { mode := .initializing, ret := .ready, stopLine := false }
  freeNext := 0
  pending := []

end Sys2Proof.Machine
end

