-- ==== Sys2Proof/Machine/Wire.lean ====
section
/-! DEFINITION. What goes over the Handler Link as bytes: byte order, the check value, whole frames, the
receiver's states, the codes of R185 and the written forms of labels and locations (R166 to R168, R175
to R178, R185, R186). -/

namespace Sys2Proof.Machine

/-! ### Byte order (R175) -/

/-- A number of one byte. -/
def byteOf (n : Nat) : Byte := BitVec.ofNat 8 n

/-- A two-byte field, most significant byte first. -/
def be16 (w : Word16) : List Byte := [w.extractLsb' 8 8, w.extractLsb' 0 8]

/-- A four-byte field, most significant byte first. -/
def be32 (w : Word32) : List Byte :=
  [w.extractLsb' 24 8, w.extractLsb' 16 8, w.extractLsb' 8 8, w.extractLsb' 0 8]

/-- The number two bytes spell, most significant first. -/
def nat16 (hi lo : Byte) : Nat := 256 * hi.toNat + lo.toNat

/-- A flag as a byte, 00h or 01h. -/
def flagByte (b : Bool) : Byte := if b then 0x01#8 else 0x00#8

/-- A byte whose bit `n` is the `n`-th of the listed flags. -/
def bitsOf : List Bool → Nat
  | [] => 0
  | b :: bs => b.toNat + 2 * bitsOf bs

/-- An optional one-byte value: FFh when absent. -/
def optByte : Option Nat → Byte
  | some n => byteOf n
  | none => 0xFF#8

/-- An optional tag: a presence byte and the tag, 00h when absent. -/
def optTag : Option Tag → List Byte
  | some t => [0x01#8, t]
  | none => [0x00#8, 0x00#8]

/-! ### The check value and frames (R166, R167) -/

/-- One bit of the check register: the polynomial is x^16 + x^12 + x^5 + 1. -/
def crcShift (r : Word16) : Word16 :=
  if r.msb then (r <<< 1) ^^^ 0x1021#16 else r <<< 1

/-- `n` bits of the check register. -/
def crcShifts : Nat → Word16 → Word16
  | 0, r => r
  | n + 1, r => crcShifts n (crcShift r)

/-- One byte enters the register, most significant bit first. -/
def crcByte (r : Word16) (b : Byte) : Word16 :=
  crcShifts 8 (r ^^^ (b.zeroExtend 16 <<< 8))

/-- The check value over the LENGTH, SEQ, KIND and BODY bytes; the register starts with every bit set. -/
def crc16 (bytes : List Byte) : Word16 := bytes.foldl crcByte 0xFFFF#16

/-- The bytes the check value covers. -/
def Frame.covered (f : Frame) : List Byte :=
  be16 (BitVec.ofNat 16 f.body.length) ++ [f.seq, f.kind] ++ f.body

/-- A whole frame, SYNC to CHECK (R166). -/
def Frame.bytes (f : Frame) : List Byte :=
  [Config.sync] ++ f.covered ++ be16 (crc16 f.covered)

/-- The bytes after SYNC are those of a complete frame: LENGTH is 240 or less and counts the BODY. -/
def completeFrame : List Byte → Bool
  | hi :: lo :: rest => nat16 hi lo ≤ Config.bodyMax && rest.length == nat16 hi lo + 4
  | _ => false

/-- The received check is the computed one: the two CHECK bytes are the last two. -/
def goodCheck (bytes : List Byte) : Bool :=
  bytes.drop (bytes.length - 2) == be16 (crc16 (bytes.take (bytes.length - 2)))

/-! ### The receiver (R168) -/

/-- A byte taken while hunting. -/
def Receiver.hunt (b : Byte) : Receiver :=
  if b = Config.sync then .assembling [b] else .hunting

/-- Hunting resumes at the two LENGTH bytes of a frame whose LENGTH exceeded 240. -/
def Receiver.rehunt (hi lo : Byte) : Receiver :=
  match Receiver.hunt hi with
  | .assembling bs => .assembling (bs ++ [lo])
  | .hunting => Receiver.hunt lo

/-- Hunting resumes at a LENGTH field that exceeded 240. -/
def Receiver.rehuntLength (length : Word16) : Receiver :=
  Receiver.rehunt (length.extractLsb' 8 8) (length.extractLsb' 0 8)

/-- A byte is taken: while assembling it is appended, whatever it is.  The third byte of a frame completes
LENGTH, which is then checked; the last byte completes the frame, which is discarded if its check is bad.
The byte that completes a good frame is the event of a request's row, and gives nothing here. -/
def Receiver.take : Receiver → Byte → Option Receiver
  | .hunting, b => some (.hunt b)
  | .assembling bs, b =>
    match bs ++ [b] with
    | [_, hi, lo] =>
      some (if nat16 hi lo ≤ Config.bodyMax then .assembling (bs ++ [b]) else .rehunt hi lo)
    | whole =>
      if completeFrame (whole.drop 1) then
        if goodCheck (whole.drop 1) then none else some .hunting
      else some (.assembling whole)

/-- Bytes are taken one after another. -/
def Receiver.takeAll (r : Receiver) (bs : List Byte) : Option Receiver := bs.foldlM Receiver.take r

/-! ### Statuses of replies (section 11.7, R185) -/

/-- The reply statuses, in the order of section 11.7. -/
inductive Status where
  | ok
  | accepted
  | stored
  | notStored
  | badFormat
  | unknownRequest
  | linkBusy
  | modeRefused
  | tagInUse
  | queueFull
  | noSuchTag
  | noSuchLocation
  | logicalLost
  | referenceNotAllowed
  | driveAbsent
  | labelNotFound
  | labelAmbiguous
  | sameLocation
  | destinationRetired
  | destinationFull
  | slotSuspect
  | notAwaiting
  | divertClaimed
  | notCancellable
  | notHolding
  | portBusy
  | portState
  | queueNotEmpty
  | mapNotClean
  | slotsOccupied
  | outOfRange
  | alreadyRetired
  | mapFull
  | listOverflow
  | ackUnknown
  | notReleased
  deriving DecidableEq, Repr

/-- 00h to 03h, then the refusals from 10h in table order. -/
def Status.code (s : Status) : Byte :=
  if s.ctorIdx < 4 then byteOf s.ctorIdx else byteOf (s.ctorIdx + 12)

/-- A reply with a refusal status declines the request. -/
def Status.refusal (s : Status) : Bool := 4 ≤ s.ctorIdx

/-! ### The other codes of R185: each set's codes follow the order of its names -/

/-- Results 00h to 12h. -/
def Result.code (r : Result) : Byte := byteOf r.ctorIdx

/-- Attention kinds 00h to 0Fh. -/
def AttnKind.code (k : AttnKind) : Byte := byteOf k.ctorIdx

/-- Library modes 00h to 05h. -/
def LibMode.code (m : LibMode) : Byte := byteOf m.ctorIdx

/-- A return mode has the code of the library mode it names. -/
def ReturnMode.lib : ReturnMode → LibMode
  | .ready => .ready
  | .maintenance => .maintenance

/-- MODE_CHANGED causes 00h to 09h. -/
def ModeCause.code (c : ModeCause) : Byte := byteOf c.ctorIdx

/-- Picker states 00h to 05h. -/
def Picker.code (p : Picker) : Byte := byteOf p.ctorIdx

/-- Port states 00h to 04h. -/
def PortState.code (p : PortState) : Byte := byteOf p.ctorIdx

/-- Audit marks 00h to 02h. -/
def AuditMark.code (m : AuditMark) : Byte := byteOf m.ctorIdx

/-- Bay states 00h to 05h. -/
def BayState.code (b : BayState) : Byte := byteOf b.ctorIdx

/-- Occupancy 00h to 02h (R182). -/
def Occ.code (o : Occ) : Byte := byteOf o.ctorIdx

/-- Range kinds 00h to 04h (R180). -/
def RangeKind.code (k : RangeKind) : Byte := byteOf k.ctorIdx

/-- Drive waits 00h and 01h. -/
def DriveWait.code (w : DriveWait) : Byte := byteOf w.ctorIdx

/-- Banks 00h and 01h. -/
def BankId.code (b : BankId) : Byte := byteOf b.ctorIdx

/-- Retirement causes 00h FAULTS and 01h REQUEST (R184). -/
def RetireCause.code (c : RetireCause) : Byte := byteOf c.ctorIdx

/-- The request kind codes of the kinds that become entries. -/
def ReqKind.code : ReqKind → Byte
  | .move => 0x06#8
  | .scan => 0x07#8
  | .stow => 0x08#8

/-- Entry states 00h to 05h. -/
def EntryState.code : EntryState → Byte
  | .queued => 0x00#8
  | .waitingDrive _ => 0x01#8
  | .waitingPort => 0x02#8
  | .running => 0x03#8
  | .awaitingConfirm => 0x04#8
  | .done => 0x05#8

/-- Stages 00h to 0Ah; a PARK is no stage of an entry. -/
def Stage.code : Stage → Option Nat
  | .home _ => some 0
  | .unpark => some 1
  | .travel .source => some 2
  | .pick => some 3
  | .identify => some 4
  | .travel .dest => some 5
  | .place => some 6
  | .retract _ => some 7
  | .travel .scan => some 8
  | .probe => some 9
  | .read => some 10
  | .park => none

/-- The attention kind of an attention notice. -/
def Attention.kind : Attention → AttnKind
  | .modeChanged .. => .modeChanged
  | .doorOpened .. => .doorOpened
  | .doorClosed => .doorClosed
  | .doorForced .. => .doorForced
  | .portAudited .. => .portAudited
  | .driveInserted .. => .driveInserted
  | .driveRemoved .. => .driveRemoved
  | .driveEjected .. => .driveEjected
  | .slotRetired .. => .slotRetired
  | .logicalLost .. => .logicalLost
  | .mapFull .. => .mapFull
  | .mapChanged .. => .mapChanged
  | .mapAdjusted .. => .mapAdjusted
  | .storeFault .. => .storeFault
  | .storeDefaulted => .storeDefaulted
  | .duplicateLabel .. => .duplicateLabel

/-- Every attention kind, in the order of section 9.6. -/
def AttnKind.all : List AttnKind :=
  [.modeChanged, .doorOpened, .doorClosed, .doorForced, .portAudited, .driveInserted, .driveRemoved,
    .driveEjected, .slotRetired, .logicalLost, .mapFull, .mapChanged, .mapAdjusted, .storeFault,
    .storeDefaulted, .duplicateLabel]

/-! ### Labels and locations (R178) -/

/-- A label field: its length, then its characters; length 0 when absent. -/
def labelField : Option Label → List Byte
  | some l => byteOf l.length :: l
  | none => [0x00#8]

/-- A location's kind code and index. -/
def Loc.codes : Loc → List Byte
  | .slot n => [0x01#8, byteOf n]
  | .bay n => [0x02#8, byteOf n]
  | .cell n => [0x03#8, byteOf n]
  | .gripper => [0x05#8, 0x00#8]

/-- A physical location: kind, index and logical number; FFh FFh FFh when absent. -/
def locField : Option LocView → List Byte
  | some v => v.loc.codes ++ [optByte v.logical]
  | none => [0xFF#8, 0xFF#8, 0xFF#8]

/-- The KIND codes of the catalogue (R176). -/
def isRequestKind (kind : Byte) : Bool := 0x01 ≤ kind.toNat && kind.toNat ≤ 0x1A

/-! ### Notice frames (R176, R177, R184) -/

/-- The fields of an attention kind. -/
def Attention.fields : Attention → List Byte
  | .modeChanged p n r c t =>
    [optByte (p.map (·.code.toNat)), n.code, optByte (r.map (·.lib.code.toNat)), c.code] ++ optTag t
  | .doorOpened b => [b.code]
  | .doorClosed => []
  | .doorForced b a ts => [b.code, flagByte a, byteOf ts.length] ++ ts
  | .portAudited cs => cs.flatMap fun c => c.1.code :: labelField c.2
  | .driveInserted b st => [byteOf b, st.code]
  | .driveRemoved b st l t => [byteOf b, st.code] ++ labelField l ++ optTag t
  | .driveEjected b l e => [byteOf b] ++ labelField l ++ [flagByte e]
  | .slotRetired p c t l sub o lab =>
    [byteOf p, c.code] ++ optTag t ++ [optByte l, optByte sub, o.code] ++ labelField lab
  | .logicalLost l p => [byteOf l, byteOf p]
  | .mapFull p => [byteOf p]
  | .mapChanged a e b g => [byteOf a, byteOf e, byteOf b, byteOf g]
  | .mapAdjusted a e b g => [byteOf a, byteOf e, byteOf b, byteOf g]
  | .storeFault b g => b.code :: be32 g
  | .storeDefaulted => []
  | .duplicateLabel l loc n => labelField (some l) ++ loc.codes ++ [byteOf n]

/-- The KIND of a notice's frame (R176). -/
def NoticeBody.frameKind : NoticeBody → Byte
  | .completionMove .. => 0x90#8
  | .completionScan .. => 0x90#8
  | .verify .. => 0x91#8
  | .attention _ => 0x92#8
  | .summary _ => 0x93#8

/-- The content of a notice BODY after its three header bytes (R184). -/
def NoticeBody.content : NoticeBody → List Byte
  | .completionMove t k a r s d l e =>
    [t, k.code] ++ be32 a ++ [r.code] ++ locField s ++ locField d ++ labelField l ++ labelField e
  | .completionScan t a r k f l n o c first =>
    [t, 0x07#8] ++ be32 a ++ [r.code, k.code, f, l, byteOf n, byteOf o, byteOf c] ++ locField first
  | .verify t s d l e => [t] ++ locField s ++ locField d ++ labelField l ++ labelField e
  | .attention a => a.kind.code :: a.fields
  | .summary ks => byteOf ks.length :: ks.map AttnKind.code

/-- The frame of a notice: SEQ 0, its number and transmit count, then its content (R141, R177). -/
def Notice.frame (n : Notice) : Frame where
  seq := 0x00#8
  kind := n.body.frameKind
  body := be16 n.number ++ [byteOf n.count] ++ n.body.content

/-- The frame in course of sending. -/
def TxFrame.frame : TxFrame → Frame
  | .reply r => r.frame
  | .notice n => n.frame

end Sys2Proof.Machine
end

