-- ==== Sys2Proof/WellFormed.lean ====
section
/-! DEFINITION. Which commands are well formed: a request row carries a BODY a good frame can have, and a
row that names a case carries that case. -/

namespace Sys2Proof

/-- A BODY a good frame can carry (R166). -/
def bodyOk (body : List Byte) : Bool := body.length ≤ Config.bodyMax

/-- The command's operands are ones the row can have. -/
def Instr.wellFormed : Instr → Bool
  | .powerOn _ _ _ => true
  | .describe _ b => bodyOk b
  | .queryStatus _ b => bodyOk b
  | .queryLocations _ b => bodyOk b
  | .queryRequest _ b => bodyOk b
  | .queryMap _ b => bodyOk b
  | .move _ b => bodyOk b
  | .scan _ b => bodyOk b
  | .stow _ b => bodyOk b
  | .confirm _ b => bodyOk b
  | .divert _ b => bodyOk b
  | .returnHome _ b => bodyOk b
  | .cancel _ b => bodyOk b
  | .abortAll _ b => bodyOk b
  | .pause _ b => bodyOk b
  | .resume _ b => bodyOk b
  | .portUnlock _ b => bodyOk b
  | .portLock _ b => bodyOk b
  | .maintenanceEnter _ b => bodyOk b
  | .maintenanceLeave _ b => bodyOk b
  | .setExposed _ b => bodyOk b
  | .retireSlot _ b => bodyOk b
  | .consolidate _ b => bodyOk b
  | .setParameters _ b => bodyOk b
  | .noticeAck _ b => bodyOk b
  | .recover _ b => bodyOk b
  | .resetSoft _ b _ => bodyOk b && b != [0x01#8]
  | .resetFull _ b => bodyOk b && b != [0x00#8]
  | .resetFullReload _ => true
  | .unknownRequest _ k b => bodyOk b && !Machine.isRequestKind k
  | .frameBadCheck bs => Machine.completeFrame bs && !Machine.goodCheck bs
  | .frameLengthExceeded l bs =>
    decide (Config.bodyMax < l.toNat) && ((Machine.Receiver.rehuntLength l).takeAll bs).isSome
  | .interByteGapTimeout b bs => ((Machine.Receiver.hunt b).takeAll bs).isSome
  | .byteWithoutStopBit => true
  | .frameSent => true
  | .homeOutcome _ _ _ => true
  | .travelOutcome _ _ _ => true
  | .pickOutcome _ _ _ => true
  | .placeOutcome _ _ => true
  | .retractOutcome _ _ _ => true
  | .probeOutcome _ _ => true
  | .readOutcome _ _ => true
  | .parkOutcome _ _ => true
  | .unparkOutcome _ _ _ => true
  | .stageTimerExpiry _ => true
  | .parkTimerExpiry => true
  | .confirmTimerExpiry => true
  | .loadTimerExpiry _ => true
  | .ejectTimerExpiry _ => true
  | .repeatTimerExpiry => true
  | .presentRising _ _ => true
  | .presentFalling _ => true
  | .acceptedRising _ => true
  | .ejectReadyRising _ => true
  | .cartridgeFalling _ _ => true
  | .doorOpening => true
  | .doorClosing => true
  | .emergencyStopAsserted _ => true
  | .emergencyStopReleased => true
  | .bankWriteComplete _ => true
  | .syncReceived _ => true
  | .powerLoss => true

end Sys2Proof
end

