-- ==== Sys2Proof/Machine/Flags.lean ====
section
/-! DEFINITION. The inventory's records and every flag computed from state: the duplicate flags and the
duplications an update creates (R11), and the flag bytes of replies (R182). -/

namespace Sys2Proof.Machine

/-! ### Records (R1, R7) -/

/-- The record of a location; a location outside the set reads as not known. -/
def Inventory.place (v : Inventory) : Loc → PlaceRec
  | .slot n => v.slots.getD n PlaceRec.notKnown
  | .bay n => v.bays.getD n PlaceRec.notKnown
  | .cell n => v.cells.getD n PlaceRec.notKnown
  | .gripper => v.gripper

/-- Change the record of one location. -/
def Inventory.modify (v : Inventory) (l : Loc) (f : PlaceRec → PlaceRec) : Inventory :=
  match l with
  | .slot n => { v with slots := v.slots.modify n f }
  | .bay n => { v with bays := v.bays.modify n f }
  | .cell n => { v with cells := v.cells.modify n f }
  | .gripper => { v with gripper := f v.gripper }

/-- Change every record. -/
def Inventory.mapAll (v : Inventory) (f : PlaceRec → PlaceRec) : Inventory where
  slots := v.slots.map f
  bays := v.bays.map f
  cells := v.cells.map f
  gripper := f v.gripper

/-- The location set (R1): slots, bays, port cells and the gripper, each kind in ascending order. -/
def Inventory.locations (v : Inventory) : List Loc :=
  (List.range v.slots.length).map .slot ++ (List.range v.bays.length).map .bay
    ++ (List.range v.cells.length).map .cell ++ [.gripper]

/-- The records in the order of `locations`. -/
def Inventory.records (v : Inventory) : List PlaceRec :=
  v.slots ++ v.bays ++ v.cells ++ [v.gripper]

/-! ### Duplicate labels (R11) -/

/-- The label a record holds: present only while it is OCCUPIED (R7). -/
def PlaceRec.holds (p : PlaceRec) : Option Label :=
  if p.occ = .occupied then p.label else none

/-- How many locations hold a label. -/
def Inventory.holders (v : Inventory) (l : Label) : Nat :=
  v.records.countP fun p => p.holds == some l

/-- The locations that hold a label, in location order (R6). -/
def Inventory.holdersOf (v : Inventory) (l : Label) : List Loc :=
  v.locations.filter fun x => (v.place x).holds == some l

/-- The duplicate flag of a record: it holds a label that another location holds too. -/
def Inventory.duplicated (v : Inventory) (p : PlaceRec) : Bool :=
  match p.holds with
  | some l => 2 ≤ v.holders l
  | none => false

/-- Recompute every duplicate flag. -/
def Inventory.reflag (v : Inventory) : Inventory :=
  v.mapAll fun p => { p with dup := v.duplicated p }

/-- The duplication an update from `v` to `w` creates: a label given to a location, held by two or more
after and by fewer before, with that location and the number of holders after. -/
def Inventory.duplicationTo (v w : Inventory) : Option (Label × Loc × Nat) :=
  w.locations.findSome? fun x =>
    match (w.place x).holds with
    | none => none
    | some l =>
      if (v.place x).holds ≠ some l ∧ 2 ≤ w.holders l ∧ v.holders l < w.holders l then
        some (l, x, w.holders l)
      else none

/-! ### Flag bytes of replies (R182) -/

/-- A location record's flags: bit 0 duplicate, bit 1 retired, bit 2 lost. -/
def recordFlags (duplicate retired lost : Bool) : Byte := byteOf (bitsOf [duplicate, retired, lost])

/-- QUERY_STATUS's flags: hold, stop line asserted, unsaved, commit in flight, commit pending. -/
def statusFlags (hold stop unsaved inFlight commitPending : Bool) : Byte :=
  byteOf (bitsOf [hold, stop, unsaved, inFlight, commitPending])

/-- The attention summary as two bytes: bit n is set for the attention kind of code n. -/
def summaryBits (ks : List AttnKind) : Word16 :=
  BitVec.ofNat 16 (bitsOf (AttnKind.all.map fun k => ks.contains k))

/-- A MOVE's flags: bit 0 VERIFY, bit 1 SKIP_LABEL. -/
def moveFlags (verify skipLabel : Bool) : Byte := byteOf (bitsOf [verify, skipLabel])

end Sys2Proof.Machine
end

