-- ==== Sys2Proof/Machine/Operands.lean ====
section
/-! DEFINITION. The operand forms: reading a request BODY against the layout of its KIND, field by field
from the first byte (R179 to R181, R186).  A reading answers the fields, or the offset of the first byte
found at fault (R177). -/

namespace Sys2Proof.Machine

/-- A location reference as written (R178). -/
inductive Ref where
  | logical (n : Nat)
  | physical (n : Nat)
  | bay (n : Nat)
  | port (n : Nat)
  | label (text : Label)
  | gripper (n : Nat)
  deriving DecidableEq, Repr

/-- The reference kinds (R178). -/
inductive RefKind where
  | logical
  | physical
  | bay
  | port
  | label
  | gripper
  deriving DecidableEq, Repr

/-- What a field's reading answers: the field, the bytes after it and their offset. -/
structure Taken (α : Type) where
  field : α
  rest : List Byte
  offset : Nat

/-- A reading of one field from the bytes left, which begin at the given offset. -/
abbrev Reading (α : Type) := List Byte → Nat → Except Nat (Taken α)

/-- A byte; a body that ends here ends too soon, and the offset is then its LENGTH (R177). -/
def readByte : Reading Byte
  | [], o => .error o
  | b :: r, o => .ok ⟨b, r, o + 1⟩

/-- A byte below `bound`, as a number: a code of a list (R181). -/
def readBelow (bound : Nat) : Reading Nat
  | [], o => .error o
  | b :: r, o => if b.toNat < bound then .ok ⟨b.toNat, r, o + 1⟩ else .error o

/-- `n` label characters, each within 20h to 7Eh (R179). -/
def readChars : Nat → Reading (List Byte)
  | 0, r, o => .ok ⟨[], r, o⟩
  | _ + 1, [], o => .error o
  | n + 1, b :: r, o =>
    if 0x20 ≤ b.toNat ∧ b.toNat ≤ 0x7E then
      match readChars n r (o + 1) with
      | .ok t => .ok ⟨b :: t.field, t.rest, t.offset⟩
      | .error e => .error e
    else .error o

/-- A label field that may be absent (length 0).  A length over 16 is at fault itself, whether or not the body
ends before the label would (log entry 27). -/
def readOptLabel : Reading (Option Label)
  | [], o => .error o
  | n :: r, o =>
    if n.toNat = 0 then .ok ⟨none, r, o + 1⟩
    else if Config.labelMax < n.toNat then .error o
    else
      match readChars n.toNat r (o + 1) with
      | .ok t => .ok ⟨some t.field, t.rest, t.offset⟩
      | .error e => .error e

/-- A label field that must be present; length 0 is at fault (R179). -/
def readLabel : Reading Label := fun bs o =>
  match readOptLabel bs o with
  | .ok ⟨some l, r, o'⟩ => .ok ⟨l, r, o'⟩
  | .ok ⟨none, _, _⟩ => .error o
  | .error e => .error e

/-- A location reference (R179); an index is not checked here. -/
def readRef : Reading Ref := fun bs o => do
  let k ← readBelow 6 bs o
  match k.field with
  | 4 =>
    let l ← readLabel k.rest k.offset
    return ⟨.label l.field, l.rest, l.offset⟩
  | n =>
    let i ← readByte k.rest k.offset
    let m := i.field.toNat
    let ref : Ref :=
      match n with
      | 0 => .logical m
      | 1 => .physical m
      | 2 => .bay m
      | 3 => .port m
      | _ => .gripper m
    return ⟨ref, i.rest, i.offset⟩

/-- The end of the body: bytes left over are at fault, the first of them named (R177). -/
def Taken.close {α : Type} (t : Taken α) : Except Nat α :=
  match t.rest with
  | [] => .ok t.field
  | _ :: _ => .error t.offset

/-- An empty BODY (R180). -/
def parseEmpty (body : List Byte) : Except Nat Unit := (Taken.mk () body 0).close

/-- One byte: a tag, a count or a slot (R180). -/
def parseByte (body : List Byte) : Except Nat Byte := do
  (← readByte body 0).close

/-- A MOVE body (R180). -/
structure MoveBody where
  tag : Tag
  verify : Bool
  skipLabel : Bool
  source : Ref
  dest : Ref
  expected : Option Label
  deriving DecidableEq, Repr

def parseMove (body : List Byte) : Except Nat MoveBody := do
  let t ← readByte body 0
  let f ← readBelow 4 t.rest t.offset
  let s ← readRef f.rest f.offset
  let d ← readRef s.rest s.offset
  let e ← readOptLabel d.rest d.offset
  Taken.close ⟨⟨t.field, f.field.testBit 0, f.field.testBit 1, s.field, d.field, e.field⟩, e.rest, e.offset⟩

/-- A SCAN body (R180). -/
structure ScanBody where
  tag : Tag
  kind : RangeKind
  first : Byte
  last : Byte
  deriving DecidableEq, Repr

/-- The range kind of a code below 5. -/
def rangeKindOf : Nat → RangeKind
  | 0 => .logical
  | 1 => .physical
  | 2 => .bays
  | 3 => .port
  | _ => .all

def parseScan (body : List Byte) : Except Nat ScanBody := do
  let t ← readByte body 0
  let k ← readBelow 5 t.rest t.offset
  let f ← readByte k.rest k.offset
  let l ← readByte f.rest f.offset
  Taken.close ⟨⟨t.field, rangeKindOf k.field, f.field, l.field⟩, l.rest, l.offset⟩

/-- A STOW or DIVERT body: a tag and a destination reference (R180). -/
def parseTagRef (body : List Byte) : Except Nat (Tag × Ref) := do
  let t ← readByte body 0
  let r ← readRef t.rest t.offset
  Taken.close ⟨(t.field, r.field), r.rest, r.offset⟩

/-- A QUERY_LOCATIONS body (R180). -/
structure RangeBody where
  kind : RefKind
  first : Nat
  last : Nat
  deriving DecidableEq, Repr

/-- The reference kind of a code below 6. -/
def refKindOf : Nat → RefKind
  | 0 => .logical
  | 1 => .physical
  | 2 => .bay
  | 3 => .port
  | 4 => .label
  | _ => .gripper

def parseRange (body : List Byte) : Except Nat RangeBody := do
  let k ← readBelow 6 body 0
  let f ← readByte k.rest k.offset
  let l ← readByte f.rest f.offset
  Taken.close ⟨⟨refKindOf k.field, f.field.toNat, l.field.toNat⟩, l.rest, l.offset⟩

/-- An ABORT_ALL body: bit 0 is STOP_RUNNING (R180). -/
def parseAbort (body : List Byte) : Except Nat Bool := do
  let f ← readBelow 2 body 0
  Taken.close ⟨f.field.testBit 0, f.rest, f.offset⟩

/-- A two-byte number. -/
def readWord16 : Reading Word16 := fun bs o => do
  let h ← readByte bs o
  let l ← readByte h.rest h.offset
  return ⟨h.field ++ l.field, l.rest, l.offset⟩

/-- A NOTICE_ACK body: the notice number (R180). -/
def parseAck (body : List Byte) : Except Nat Word16 := do
  (← readWord16 body 0).close

/-- The levels of RESET (R180). -/
inductive ResetLevel where
  | soft
  | full
  deriving DecidableEq, Repr

def parseReset (body : List Byte) : Except Nat ResetLevel := do
  let l ← readBelow 2 body 0
  Taken.close ⟨if l.field = 0 then .soft else .full, l.rest, l.offset⟩

/-- The values of a SET_PARAMETERS body, as written (R180): every byte value is well formed. -/
structure ParamBody where
  retries : Nat
  threshold : Nat
  stageLimit : Nat
  confirmLimit : Nat
  loadLimit : Nat
  ejectLimit : Nat
  parkDelay : Nat
  autoRelock : Nat
  repeatInterval : Nat
  deriving DecidableEq, Repr

def parseParams (body : List Byte) : Except Nat ParamBody := do
  let r ← readByte body 0
  let t ← readByte r.rest r.offset
  let sl ← readWord16 t.rest t.offset
  let cl ← readWord16 sl.rest sl.offset
  let ll ← readWord16 cl.rest cl.offset
  let el ← readWord16 ll.rest ll.offset
  let pd ← readWord16 el.rest el.offset
  let ar ← readByte pd.rest pd.offset
  let ri ← readWord16 ar.rest ar.offset
  Taken.close
    ⟨{ retries := r.field.toNat, threshold := t.field.toNat, stageLimit := sl.field.toNat,
       confirmLimit := cl.field.toNat, loadLimit := ll.field.toNat, ejectLimit := el.field.toNat,
       parkDelay := pd.field.toNat, autoRelock := ar.field.toNat, repeatInterval := ri.field.toNat },
      ri.rest, ri.offset⟩

/-- The position of the first value outside its range, in the order of R165's table. -/
def ParamBody.firstBad (p : ParamBody) : Option Nat :=
  if 3 < p.retries then some 0
  else if p.threshold < 1 ∨ 8 < p.threshold then some 1
  else if p.stageLimit < 500 ∨ 30000 < p.stageLimit then some 2
  else if p.confirmLimit < 5 ∨ 600 < p.confirmLimit then some 3
  else if p.loadLimit < 5 ∨ 300 < p.loadLimit then some 4
  else if p.ejectLimit < 5 ∨ 300 < p.ejectLimit then some 5
  else if p.parkDelay ≠ 0 ∧ (p.parkDelay < 10 ∨ 3600 < p.parkDelay) then some 6
  else if 1 < p.autoRelock then some 7
  else if p.repeatInterval < 200 ∨ 10000 < p.repeatInterval then some 8
  else none

/-- The parameter set the values spell. -/
def ParamBody.params (p : ParamBody) : Params where
  retries := p.retries
  threshold := p.threshold
  stageLimit := p.stageLimit
  confirmLimit := p.confirmLimit
  loadLimit := p.loadLimit
  ejectLimit := p.ejectLimit
  parkDelay := p.parkDelay
  autoRelock := p.autoRelock == 1
  repeatInterval := p.repeatInterval

/-- Every parameter lies within its range (R165), as a valid bank requires (R32). -/
def Params.inRange (p : Params) : Bool :=
  (ParamBody.mk p.retries p.threshold p.stageLimit p.confirmLimit p.loadLimit p.ejectLimit p.parkDelay
    p.autoRelock.toNat p.repeatInterval).firstBad.isNone

/-- A LABEL outcome's text is a label, or the outcome is taken as NO_READ (R64). -/
def labelOutcome (text : List Byte) : Option Label :=
  if text ≠ [] ∧ text.length ≤ Config.labelMax ∧ text.all (fun b => 0x20 ≤ b.toNat && b.toNat ≤ 0x7E)
  then some text else none

/-! ### Bodies as the layouts write them (R178 to R180) -/

/-- A label of 1 to 16 characters within 20h to 7Eh (R7). -/
def labelOk (l : Label) : Bool :=
  1 ≤ l.length && l.length ≤ Config.labelMax && l.all fun b => 0x20 ≤ b.toNat && b.toNat ≤ 0x7E

/-- A reference as a body can carry it. -/
def Ref.wellFormed : Ref → Bool
  | .logical n => n < 256
  | .physical n => n < 256
  | .bay n => n < 256
  | .port n => n < 256
  | .label l => labelOk l
  | .gripper n => n < 256

/-- A reference as bytes. -/
def Ref.bytes : Ref → List Byte
  | .logical n => [0x00#8, byteOf n]
  | .physical n => [0x01#8, byteOf n]
  | .bay n => [0x02#8, byteOf n]
  | .port n => [0x03#8, byteOf n]
  | .label l => 0x04#8 :: labelField (some l)
  | .gripper n => [0x05#8, byteOf n]

/-- A MOVE as a body can carry it. -/
def MoveBody.wellFormed (b : MoveBody) : Bool :=
  b.source.wellFormed && b.dest.wellFormed && b.expected.all labelOk

/-- A MOVE as bytes: flag bit 0 is VERIFY, bit 1 SKIP_LABEL. -/
def MoveBody.bytes (b : MoveBody) : List Byte :=
  [b.tag, byteOf (bitsOf [b.verify, b.skipLabel])] ++ b.source.bytes ++ b.dest.bytes ++ labelField b.expected

/-- A SCAN as bytes. -/
def ScanBody.bytes (b : ScanBody) : List Byte := [b.tag, b.kind.code, b.first, b.last]

/-- A STOW or DIVERT as bytes. -/
def tagRefBytes (b : Tag × Ref) : List Byte := b.1 :: b.2.bytes

/-- A range as a body can carry it. -/
def RangeBody.wellFormed (b : RangeBody) : Bool := b.first < 256 && b.last < 256

/-- A range as bytes; the reference kinds' codes follow the order of their names. -/
def RangeBody.bytes (b : RangeBody) : List Byte := [byteOf b.kind.ctorIdx, byteOf b.first, byteOf b.last]

/-- Parameters as a body can carry them: each within its field. -/
def ParamBody.wellFormed (p : ParamBody) : Bool :=
  p.retries < 256 && p.threshold < 256 && p.stageLimit < 65536 && p.confirmLimit < 65536
    && p.loadLimit < 65536 && p.ejectLimit < 65536 && p.parkDelay < 65536 && p.autoRelock < 256
    && p.repeatInterval < 65536

/-- Parameters as bytes: 15 of them. -/
def ParamBody.bytes (p : ParamBody) : List Byte :=
  [byteOf p.retries, byteOf p.threshold] ++ be16 (BitVec.ofNat 16 p.stageLimit)
    ++ be16 (BitVec.ofNat 16 p.confirmLimit) ++ be16 (BitVec.ofNat 16 p.loadLimit)
    ++ be16 (BitVec.ofNat 16 p.ejectLimit) ++ be16 (BitVec.ofNat 16 p.parkDelay)
    ++ [byteOf p.autoRelock] ++ be16 (BitVec.ofNat 16 p.repeatInterval)

end Sys2Proof.Machine
end

