-- ==== Sys2Proof/Machine/SlotMap.lean ====
section
/-! DEFINITION. The slot map and the contents of a bank, as functions of the lists alone: base order, the
current map, retirement, consolidation, the power-on adjustment, and which bank is loaded (R17 to R20,
R24, R29, R32 to R34). -/

namespace Sys2Proof.Machine

/-! ### Lists of slots -/

/-- Strictly ascending, so free of repeats. -/
def ascending : List Nat → Bool
  | a :: b :: r => a < b && ascending (b :: r)
  | _ => true

/-- No element twice. -/
def noRepeats : List Nat → Bool
  | [] => true
  | a :: r => !r.contains a && noRepeats r

/-! ### The current map (R17, R18, R20) -/

/-- The slot is on the base list or the grown list. -/
def SlotMap.retired (m : SlotMap) (p : Nat) : Bool :=
  m.base.contains p || m.grown.any fun g => g.slot == p

/-- The base order b[0] to b[A−1] (R17). -/
def SlotMap.baseOrder (N : Nat) (m : SlotMap) : List Nat :=
  (List.range N).filter fun p => !m.base.contains p

/-- The available count A (R17). -/
def SlotMap.available (N : Nat) (m : SlotMap) : Nat := N - m.base.length

/-- The slip mapping: logical slot L is served by b[L] (R18). -/
def SlotMap.slip (N : Nat) (m : SlotMap) : List (Option Nat) :=
  ((m.baseOrder N).take m.exposed).map some

/-- One entry of the grown list applied to a map (R20). -/
def GrownEntry.apply (g : GrownEntry) (current : List (Option Nat)) : List (Option Nat) :=
  let cleared := current.map fun x => if x = some g.slot then none else x
  match g.logical with
  | some l => cleared.set l g.substitute
  | none => cleared

/-- The current map: position L holds the physical slot that serves logical slot L, or nothing when L is
lost (R20). -/
def SlotMap.current (N : Nat) (m : SlotMap) : List (Option Nat) :=
  m.grown.foldl (fun c g => g.apply c) (m.slip N)

/-- The physical slot that serves a logical slot. -/
def SlotMap.physOf (N : Nat) (m : SlotMap) (l : Nat) : Option Nat := (m.current N).getD l none

/-- The logical number a physical slot shows. -/
def SlotMap.logicalOf (N : Nat) (m : SlotMap) (p : Nat) : Option Nat :=
  (m.current N).findIdx? fun x => x == some p

/-- The lost logical slots, ascending. -/
def SlotMap.lost (N : Nat) (m : SlotMap) : List Nat :=
  (List.range (m.current N).length).filter fun l => (m.physOf N l).isNone

/-- The free spares, ascending (R20). -/
def SlotMap.freeSpares (N : Nat) (m : SlotMap) : List Nat :=
  ((m.baseOrder N).drop m.exposed).filter fun p =>
    !m.grown.any fun g => g.slot == p || g.substitute == some p

/-- The fault count of a slot (R21). -/
def SlotMap.faultCount (m : SlotMap) (p : Nat) : Nat := m.faults.getD p 0

/-! ### Changes to the map -/

/-- The grown-list entry of a retirement of `p` (R24 steps 1 to 3). -/
def SlotMap.retirement (N : Nat) (m : SlotMap) (p : Nat) : GrownEntry where
  slot := p
  logical := m.logicalOf N p
  substitute := if (m.logicalOf N p).isSome then (m.freeSpares N).head? else none

/-- A retirement of `p` (R24 steps 1 to 4). -/
def SlotMap.retire (N : Nat) (m : SlotMap) (p : Nat) : SlotMap :=
  { m with grown := m.grown ++ [m.retirement N p], faults := m.faults.set p 0 }

/-- A consolidation (R29 steps 1 to 4). -/
def SlotMap.consolidate (N : Nat) (m : SlotMap) : SlotMap :=
  let base := (List.range N).filter fun p => m.retired p
  { base, grown := [], exposed := min m.exposed (N - base.length), faults := m.faults.map fun _ => 0 }

/-- The defaulted map (R33). -/
def SlotMap.defaulted (N : Nat) : SlotMap where
  base := []
  grown := []
  exposed := N - 4
  faults := List.replicate N 0

/-- The power-on adjustment of a loaded map; nothing when the map stands as loaded (R34). -/
def SlotMap.adjusted (N : Nat) (m : SlotMap) : Option SlotMap :=
  let base := m.base.filter (· < N)
  let grown := m.grown.filter (·.slot < N)
  let available := N - base.length
  if base.length ≠ m.base.length ∨ grown.length ≠ m.grown.length
      ∨ available < Config.minAvailable ∨ available < m.exposed
      ∨ grown.any (fun g => (g.substitute.any (N ≤ ·)) || (g.logical.any (m.exposed ≤ ·))) then
    if available < Config.minAvailable then
      some { m with base := [], grown := [], exposed := N - 4 }
    else
      some (grown.foldl (fun a g => a.retire N g.slot)
        { m with base, grown := [], exposed := min m.exposed available })
  else none

/-! ### Banks (R32, R33) -/

/-- The bank is valid (R32). -/
def Bank.valid (b : Bank) : Bool :=
  b.checkMatches
    && ascending b.image.base && decide (b.image.base.length ≤ Config.baseMax)
    && decide (b.image.grown.length ≤ Config.grownMax)
    && noRepeats (b.image.grown.map (·.slot))
    && b.image.grown.all (fun g => !b.image.base.contains g.slot)
    && noRepeats (b.image.grown.filterMap (·.substitute))
    && decide (1 ≤ b.image.exposed) && b.image.params.inRange

/-- Generation `x` is newer than `y`: their difference modulo 2^32 lies between 1 and 2,147,483,647. -/
def newerGen (x y : Word32) : Bool := 1 ≤ (x - y).toNat && (x - y).toNat ≤ 2147483647

/-- The bank that is loaded, or none when neither is valid (R33). -/
def Store.loadBank (st : Store) : Option BankId :=
  if st.bank0.valid && st.bank1.valid then
    if newerGen st.bank1.image.generation st.bank0.image.generation then some .bank1 else some .bank0
  else if st.bank0.valid then some .bank0
  else if st.bank1.valid then some .bank1
  else none

/-- A bank by its number. -/
def Store.bank (st : Store) : BankId → Bank
  | .bank0 => st.bank0
  | .bank1 => st.bank1

/-- Change a bank. -/
def Store.setBank (st : Store) (i : BankId) (b : Bank) : Store :=
  match i with
  | .bank0 => { st with bank0 := b }
  | .bank1 => { st with bank1 := b }

/-- The target of a commit: the bank other than the newest, or bank 0 when there is none (R35). -/
def Store.target (st : Store) : BankId :=
  match st.newest with
  | some .bank0 => .bank1
  | some .bank1 => .bank0
  | none => .bank0

end Sys2Proof.Machine
end

