-- ==== Sys2Proof/Machine/Ops.lean ====
section
/-! DEFINITION. The named operations over the state that the commands' meanings share: notices, inventory
updates, bays, entries, the mode, the mechanism port, the map store and replies. -/

namespace Sys2Proof.Machine

/-- What a command answers. -/
abbrev Answer := Host.Outcome State Fault Refusal

/-! ### The straps' counts (R1) -/

/-- N_phys. -/
def State.nPhys (s : State) : Nat := 24 + 12 * s.straps.slotGroup.val

/-- The installed bay count. -/
def State.nBays (s : State) : Nat := s.straps.bayCount.val

/-- The available count A (R17). -/
def State.available (s : State) : Nat := s.map.available s.nPhys

/-! ### Lines (R101) -/

/-- The one for a drive position. -/
def driveAt {α : Type} (q : Quad α) : Nat → α
  | 0 => q.b0
  | 1 => q.b1
  | 2 => q.b2
  | _ => q.b3

/-- Change the one for a drive position. -/
def driveModify {α : Type} (q : Quad α) (i : Fin 4) (f : α → α) : Quad α :=
  match i with
  | 0 => { q with b0 := f q.b0 }
  | 1 => { q with b1 := f q.b1 }
  | 2 => { q with b2 := f q.b2 }
  | 3 => { q with b3 := f q.b3 }

/-- Read CARTRIDGE, ACCEPTED and EJECT_READY of every bay and the gripper sensor. -/
def samplePins (p : Pins) (x : Sense) : Pins :=
  { p with
    drives := ⟨⟨p.drives.b0.present, x.drives.b0⟩, ⟨p.drives.b1.present, x.drives.b1⟩,
      ⟨p.drives.b2.present, x.drives.b2⟩, ⟨p.drives.b3.present, x.drives.b3⟩⟩,
    gripper := x.gripper }

/-- The levels an event samples take the place of the levels before it (log entry 5). -/
def State.sample (s : State) (x : Sense) : State := { s with pins := samplePins s.pins x }

/-- Change the levels of one bay's lines. -/
def State.lines (s : State) (i : Fin 4) (f : DrivePins → DrivePins) : State :=
  { s with pins := { s.pins with drives := driveModify s.pins.drives i f } }

/-- The bay state its lines show (R8). -/
def derivedState (p : DrivePins) : BayState :=
  if !p.present then .absent
  else if p.lines.accepted then .loaded
  else if p.lines.cartridge then .ejected
  else .empty

/-! ### Notices (R140, R141, R145, R147) -/

/-- A free place in the notice queue. -/
def Notices.hasPlace (n : Notices) : Bool := n.queue.length < Config.noticeCapacity

/-- Hand a notice to the link: it takes the place of a waiting frame of the same number, or waits behind
the others (R172). -/
def Link.hand (l : Link) (n : Notice) : Link :=
  if l.noticeFrames.any (·.number == n.number) then
    { l with noticeFrames := l.noticeFrames.map fun m => if m.number = n.number then n else m }
  else { l with noticeFrames := l.noticeFrames ++ [n] }

/-- The completion notice of an entry has entered: its notice state becomes QUEUED (R39). -/
def Queue.noticeIn (q : Queue) (t : Tag) : Queue :=
  { q with entries := q.entries.map fun e => if e.tag = t then { e with noticeQueued := true } else e }

/-- A notice enters the queue and is handed to the link with transmit count 1 (R140, R141, R142). -/
def State.enterNotice (s : State) (b : NoticeBody) : State :=
  let n : Notice := ⟨s.notices.next, 1, b⟩
  let s1 : State :=
    { s with
      notices :=
        { s.notices with
          queue := s.notices.queue ++ [n], next := s.notices.next + 1,
          repeatTimer :=
            if s.notices.queue.isEmpty then some s.params.repeatInterval else s.notices.repeatTimer },
      link := s.link.hand n }
  match b with
  | .completionMove t .. => { s1 with queue := s1.queue.noticeIn t }
  | .completionScan t .. => { s1 with queue := s1.queue.noticeIn t }
  | .verify .. => { s1 with seq := { s1.seq with confirmTimer := some s1.params.confirmLimit } }
  | .attention _ => s1
  | .summary _ => s1

/-- Ask for a completion or verify notice (R145). -/
def State.askNotice (s : State) (b : NoticeBody) : State :=
  if s.notices.admission.isEmpty && s.notices.hasPlace then s.enterNotice b
  else { s with notices := { s.notices with admission := s.notices.admission ++ [b] } }

/-- A kind joins the attention summary, which stays in the order of section 9.6 (R147). -/
def Notices.fold (n : Notices) (k : AttnKind) : Notices :=
  { n with summary := AttnKind.all.filter fun x => x == k || n.summary.contains x }

/-- Ask for an attention notice (R147). -/
def State.askAttention (s : State) (a : Attention) : State :=
  if s.notices.admission.isEmpty && s.notices.hasPlace && s.notices.summary.isEmpty then
    s.enterNotice (.attention a)
  else { s with notices := s.notices.fold a.kind }

/-! ### The inventory (R7, R8, R10, R11) -/

/-- A record with a new occupancy and label; the label is present only when OCCUPIED. -/
def PlaceRec.set (p : PlaceRec) (o : Occ) (l : Option Label) : PlaceRec :=
  { p with occ := o, label := if o = .occupied then l else none }

/-- Set the occupancy and label of one location. -/
def Inventory.put (v : Inventory) (x : Loc) (o : Occ) (l : Option Label) : Inventory :=
  v.modify x fun p => p.set o l

/-- One update: the changes, the duplicate flags, and DUPLICATE_LABEL where it creates a duplication. -/
def State.inventoryUpdate (s : State) (f : Inventory → Inventory) : State :=
  let w := (f s.inv).reflag
  match s.inv.duplicationTo w with
  | some (l, x, n) => { s with inv := w }.askAttention (.duplicateLabel l x n)
  | none => { s with inv := w }

/-- The gripper set from its sensor, its label kept if it held a cartridge and still does (R8). -/
def Inventory.gripperSensed (v : Inventory) (sensor : Bool) : Inventory :=
  v.put .gripper (if sensor then .occupied else .empty)
    (if v.gripper.occ = .occupied then v.gripper.label else none)

/-- The occupancy of a bay's location follows its state (R8). -/
def BayState.occ : BayState → Occ
  | .absent => .empty
  | .empty => .empty
  | .loading => .occupied
  | .loaded => .occupied
  | .ejecting => .occupied
  | .ejected => .occupied

/-! ### Bays (R100) -/

/-- The record of a bay; a bay that is not installed reads as ABSENT. -/
def State.bay (s : State) (n : Nat) : Bay := s.bays.getD n Bay.noDrive

/-- Change the record of a bay. -/
def State.modBay (s : State) (n : Nat) (f : Bay → Bay) : State := { s with bays := s.bays.modify n f }

/-- A bay enters a state: a timer whose state it leaves stops, and eject is withdrawn outside EJECTING
(R100, R108, R111, log entry 9). -/
def Bay.enter (b : Bay) (st : BayState) : Bay :=
  { b with
    state := st
    eject := b.eject && st == .ejecting
    loadTimer := if st = .loading then b.loadTimer else none
    ejectTimer := if st = .ejecting then b.ejectTimer else none }

/-- The bay monitor's update: a bay enters a state, with the label given, as one inventory update with
the further changes `more` (R8, R100). -/
def State.bayUpdate (s : State) (n : Nat) (st : BayState) (l : Option Label)
    (more : Inventory → Inventory := id) : State :=
  (s.modBay n (·.enter st)).inventoryUpdate fun v => more (v.put (.bay n) st.occ l)

/-- The state a bay's lines show now. -/
def State.derivedBay (s : State) (n : Nat) : BayState := derivedState (driveAt s.pins.drives n)

/-- The label a bay keeps when it is derived afresh: its own if its state stays (R8). -/
def State.derivedLabel (s : State) (n : Nat) : Option Label :=
  if s.derivedBay n = (s.bay n).state then (s.inv.place (.bay n)).label else none

/-! ### Entries and claims (R9, R39, R47) -/

/-- The live entry with a tag. -/
def State.entry? (s : State) (t : Tag) : Option Entry := s.queue.entries.find? fun e => e.tag == t

/-- Change the entry with a tag. -/
def State.modEntry (s : State) (t : Tag) (f : Entry → Entry) : State :=
  { s with
    queue := { s.queue with entries := s.queue.entries.map fun e => if e.tag = t then f e else e } }

/-- The locations an entry names (R39). -/
def Entry.names (e : Entry) : List Loc :=
  e.source.toList ++ e.dest.toList ++ ((e.scan.map (·.locs)).getD [])

/-- A port cell. -/
def Loc.isCell : Loc → Bool
  | .cell _ => true
  | _ => false

/-- An entry that names a port cell (R46). -/
def Entry.isPort (e : Entry) : Bool := e.names.any Loc.isCell

/-- An entry that holds the picker (R49). -/
def Entry.holdsPicker (e : Entry) : Bool := e.state == .running || e.state == .awaitingConfirm

/-- Append a tag to the claim list of each location (R43). -/
def Inventory.claim (v : Inventory) (xs : List Loc) (t : Tag) : Inventory :=
  xs.foldl (fun w x => w.modify x fun p => { p with claims := p.claims ++ [t] }) v

/-- Remove a tag from the claim list of each location (R9). -/
def Inventory.release (v : Inventory) (xs : List Loc) (t : Tag) : Inventory :=
  xs.foldl (fun w x => w.modify x fun p => { p with claims := p.claims.filter (· != t) }) v

/-- A location as notices and replies write it: with the logical number its slot shows now (R178). -/
def State.view (s : State) (x : Loc) : LocView where
  loc := x
  logical :=
    match x with
    | .slot p => s.map.logicalOf s.nPhys p
    | _ => none

/-- The label of a MOVE's or STOW's completion notice (R149). -/
def State.completionLabel (s : State) (e : Entry) : Option Label :=
  match e.placed with
  | some l => l
  | none => if e.held then s.inv.gripper.holds else none

/-- The body of an entry's completion notice (R138, R149). -/
def State.completion (s : State) (e : Entry) (r : Result) : NoticeBody :=
  match e.kind, e.scan, e.counts with
  | .scan, some g, some c =>
    .completionScan e.tag e.accNumber r g.kind g.first g.last c.audited c.occupied c.changed
      (c.firstNot.map s.view)
  | k, _, _ =>
    .completionMove e.tag k e.accNumber r (e.source.map s.view) (e.dest.map s.view)
      (s.completionLabel e) e.expected

/-- The counts of a SCAN that ends before it runs (R136). -/
def ScanRange.unrun (g : ScanRange) : ScanCounts := ⟨0, 0, 0, g.locs.head?⟩

/-- Where a bay waits on a tag, the wait and the load result end (R109). -/
def Bay.forget (t : Tag) (b : Bay) : Bay :=
  match b.waiting with
  | some (u, _) => if u = t then { b with waiting := none, loadResult := none } else b
  | none => b

/-- The picker after a job: IDLE, unless an event has made it UNHOMED (R68, R73). -/
def Picker.afterJob : Picker → Picker
  | .unhomed => .unhomed
  | _ => .idle

/-- The current job ends and the picker is freed. -/
def Sequencer.endJob (q : Sequencer) : Sequencer := { q with job := none, picker := q.picker.afterJob }

/-- The job is that of the entry with this tag. -/
def Sequencer.runs (q : Sequencer) (t : Tag) : Bool :=
  match q.job with
  | some j => j.kind == .entry t
  | none => false

/-- The entry as it stands in DONE: its result, and the counts given or those of a SCAN that has not run
(R47). -/
def Entry.finish (r : Result) (counts : Option ScanCounts) (e : Entry) : Entry :=
  { e with state := .done, result := some r, counts := counts.or (e.scan.map (·.unrun)) }

/-- An entry reaches DONE with a result, and with counts where it is a SCAN (R47). -/
def State.entryDone (s : State) (t : Tag) (r : Result) (counts : Option ScanCounts := none) : State :=
  match s.entry? t with
  | none => s
  | some e =>
    let s1 : State :=
      { s.modEntry t (Entry.finish r counts) with
        inv := s.inv.release e.names t,
        bays := s.bays.map (Bay.forget t),
        seq := if s.seq.runs t then s.seq.endJob else s.seq }
    s1.askNotice (s1.completion (e.finish r counts) r)

/-- Entries of a list reach DONE one at a time, in order, with one result (R47). -/
def State.endAll (s : State) (ts : List Tag) (r : Result) : State :=
  ts.foldl (fun a t => a.entryDone t r) s

/-- The tags of the entries a condition holds of, in queue order. -/
def State.tagsWhere (s : State) (p : Entry → Bool) : List Tag :=
  (s.queue.entries.filter p).map (·.tag)

/-! ### The library mode (R152, R153) -/

/-- The mode changes and MODE_CHANGED is asked for; entry to STOPPED or INITIALIZING stops the park timer
(R70, R153). -/
def State.setMode (s : State) (m : LibMode) (c : ModeCause) (t : Option Tag := none) : State :=
  let s1 : State :=
    { s with
      ctl := { s.ctl with mode := m },
      seq :=
        if m = .stopped ∨ m = .initializing then { s.seq with parkTimer := none } else s.seq }
  s1.askAttention
    (.modeChanged (some s.ctl.mode) m (if m = .holding then some s.ctl.ret else none) c t)

/-- R55: every QUEUED or WAITING_PORT STOW ends CANCELLED. -/
def State.cancelStows (s : State) : State :=
  s.endAll (s.tagsWhere fun e => e.kind == .stow && (e.state == .queued || e.state == .waitingPort))
    .cancelled

/-- The return mode that records the mode the library leaves for HOLDING (R157). -/
def LibMode.recorded : LibMode → ReturnMode
  | .maintenance => .maintenance
  | _ => .ready

/-- HOLDING is entered because an entry has ended with a cartridge that has no home (R82, R157). -/
def State.enterHolding (s : State) (t : Tag) : State :=
  { s with ctl := { s.ctl with ret := s.ctl.mode.recorded } }.setMode .holding .noHome (some t)

/-- HOLDING is left because a STOW has emptied the gripper (R55, R86, R157). -/
def State.leaveHolding (s : State) (t : Tag) : State :=
  (s.setMode s.ctl.ret.lib .stowed (some t)).cancelStows

/-! ### The mechanism port (R64, R65, R67) -/

/-- The length of the stage timer in ms (R65). -/
def State.stageLength (s : State) : OrderKind → Nat
  | .home => 4 * s.params.stageLimit
  | .read => Config.readLimit
  | _ => s.params.stageLimit

/-- Send an order: it becomes the outstanding one and its stage timer starts (R64, R65). -/
def State.sendOrder (s : State) (k : OrderKind) (target : Option Loc) : State :=
  { s with
    mech :=
      { outstanding := some ⟨s.mech.lastNumber + 1, k, target⟩,
        lastNumber := s.mech.lastNumber + 1, stageTimer := some (s.stageLength k) } }

/-- The order is no longer outstanding and its stage timer is cancelled (R66, R67). -/
def Mech.clear (m : Mech) : Mech := { m with outstanding := none, stageTimer := none }

/-- A running port audit returns to pending (R125). -/
def AuditMark.halted : AuditMark → AuditMark
  | .running => .pending
  | m => m

/-- The job is halted in the middle of its stage (R67, R87, R125, R158). -/
def State.haltJob (s : State) : State :=
  { s with
    seq := { job := none, picker := .unhomed, parkTimer := none, confirmTimer := none },
    mech := s.mech.clear,
    port := { s.port with mark := s.port.mark.halted } }

/-- The entry whose job holds the picker. -/
def State.running? (s : State) : Option Entry :=
  match s.seq.job with
  | some j =>
    match j.kind with
    | .entry t => s.entry? t
    | _ => none
  | none => none

/-- The location of a PLACE of this job: the source on the return path, otherwise the destination. -/
def Job.placeAt (j : Job) (e : Entry) : Option Loc := if j.onReturn.isSome then e.source else e.dest

/-- The location of the stage in progress (R75, R159). -/
def State.stageLocation (s : State) : Option Loc :=
  match s.seq.job, s.running? with
  | some j, some e =>
    match j.stage with
    | some .pick => e.source
    | some .place => j.placeAt e
    | some (.retract .pickFault) => e.source
    | some (.retract .pickNone) => e.source
    | some (.retract .placed) => j.placeAt e
    | some (.retract .placeFault) => j.placeAt e
    | _ => none
  | _, _ => none

/-- The counts of a SCAN ended in the middle of a location (R137). -/
def Audit.stopped (a : Audit) : ScanCounts := ⟨a.audited, a.occupied, a.changed, some a.current⟩

/-- The counts the running entry has now, where it is a SCAN. -/
def State.countsNow (s : State) : Option ScanCounts :=
  match s.seq.job with
  | some j => j.audit.map Audit.stopped
  | none => none

/-- A stop or a fault disturbs the stage location: it becomes UNKNOWN, a bay is derived from its lines
instead, and the gripper is set from its sensor, as one update (R8, R16, R114). -/
def State.unsettle (s : State) (x : Option Loc) : State :=
  match x with
  | some (.bay n) =>
    s.bayUpdate n (s.derivedBay n) (s.derivedLabel n) (·.gripperSensed s.pins.gripper)
  | some l => s.inventoryUpdate fun v => (v.put l .unknown none).gripperSensed s.pins.gripper
  | none => s.inventoryUpdate fun v => v.gripperSensed s.pins.gripper

/-- A VERIFY notice on the admission list. -/
def NoticeBody.isVerify : NoticeBody → Bool
  | .verify .. => true
  | _ => false

/-- The hand-off ends: the confirm timer is cancelled and a VERIFY notice still on the admission list is
withdrawn (R90, R91, R146). -/
def State.endHandOff (s : State) : State :=
  { s with
    seq := { s.seq with confirmTimer := none },
    notices :=
      { s.notices with admission := s.notices.admission.filter fun b => !b.isVerify } }

/-- Entry to FAULTED from the job in progress (R16, R85, R161). -/
def State.mechanismFault (s : State) : State :=
  let x := s.stageLocation
  let c := s.countsNow
  let e := s.running?
  let s1 := ((s.setMode .faulted .mechanism (e.map (·.tag))).haltJob).unsettle x
  match e with
  | some e => s1.entryDone e.tag .mechanismFault c
  | none => s1

/-! ### The map store (R35 to R37) -/

/-- What a commit writes now. -/
def State.image (s : State) : BankImage where
  generation := s.store.newestGen + 1
  base := s.map.base
  grown := s.map.grown
  exposed := s.map.exposed
  params := s.params

/-- A commit starts: the target's earlier contents are lost from now on (R35). -/
def State.startCommit (s : State) : State :=
  let i := s.store.target
  let b := s.store.bank i
  { s with
    store :=
      { s.store.setBank i { b with checkMatches := false } with
        commit := some { target := i, image := s.image, retrying := false, earlier := b } } }

/-- A change asks the map store for a commit (R35). -/
def State.askCommit (s : State) : State :=
  match s.store.commit with
  | none => s.startCommit
  | some _ => { s with store := { s.store with commitPending := true } }

/-- The reply of a request will wait on the first commit that includes its change: the one its change is
about to start, or the one that follows the commit in flight (R37). -/
def State.deferReply (s : State) (seq kind : Byte) : State :=
  { s with store := { s.store with wait := some ⟨seq, kind, s.store.commit.isSome⟩ } }

/-! ### Fault counts and retirement (R21 to R26) -/

/-- A retirement with its notices and its commit request (R24, R26). -/
def State.retire (s : State) (p : Nat) (c : RetireCause) (t : Option Tag) : State :=
  let g := s.map.retirement s.nPhys p
  let r := s.inv.place (.slot p)
  let s1 : State := { s with map := s.map.retire s.nPhys p }
  let s2 := s1.askAttention (.slotRetired p c t g.logical g.substitute r.occ r.holds)
  let s3 :=
    match g.logical, g.substitute with
    | some l, none => s2.askAttention (.logicalLost l p)
    | _, _ => s2
  s3.askCommit

/-- A failure report (R21, R23). -/
def State.reportFailure (s : State) (x : Option Loc) (t : Tag) : State :=
  match x with
  | some (.slot p) =>
    if s.map.retired p then s
    else
      let n := min (s.map.faultCount p + 1) s.params.threshold
      let s1 : State := { s with map := { s.map with faults := s.map.faults.set p n } }
      if n < s.params.threshold then s1
      else if s.map.grown.length < Config.grownMax then s1.retire p .faults (some t)
      else s1.askAttention (.mapFull p)
  | _ => s

/-- A success report (R21). -/
def State.reportSuccess (s : State) (x : Option Loc) : State :=
  match x with
  | some (.slot p) => { s with map := { s.map with faults := s.map.faults.set p 0 } }
  | _ => s

/-! ### The port (R46, R115) -/

/-- An entry's move between QUEUED and WAITING_PORT when the port state changes (R46). -/
def Entry.portChange (before after : PortState) (e : Entry) : Entry :=
  if before = .secured ∧ after ≠ .secured ∧ e.state = .queued ∧ e.isPort then
    { e with state := .waitingPort }
  else if after = .secured ∧ e.state = .waitingPort then { e with state := .queued }
  else e

/-- The port takes a state, and port entries move with it (R46, R115). -/
def State.setPort (s : State) (p : Port) : State :=
  { s with
    port := p,
    queue :=
      { s.queue with entries := s.queue.entries.map (Entry.portChange s.port.state p.state) } }

/-- The sequencer may record what it finds at a port cell: the port is SECURED, or its own audit runs
(R122, R123, log entry 10). -/
def State.cellsKnown (s : State) : Bool := s.port.state == .secured || s.port.mark == .running

/-- The sequencer's change at a location that is no bay (R122). -/
def State.seqPut (s : State) (x : Loc) (o : Occ) (l : Option Label) (v : Inventory) : Inventory :=
  if x.isCell && !s.cellsKnown then v.put x .unknown none else v.put x o l

/-! ### Replies (R170, R177) -/

/-- A reply frame: the request kind, the status, and the fields the request calls for. -/
def replyFrame (seq kind : Byte) (st : Status) (fields : List Byte) : Frame where
  seq := seq
  kind := 0x80#8
  body := [kind, st.code] ++ fields

/-- The reply to the accepted request is formed (R170). -/
def State.reply (s : State) (seq kind : Byte) (st : Status) (fields : List Byte := [])
    (closesReset : Bool := false) : State :=
  let f := replyFrame seq kind st fields
  { s with
    link :=
      { s.link with
        cache := some f, replyPending := false, replies := s.link.replies ++ [⟨f, closesReset⟩] } }

/-- The transmitter, when idle, begins the oldest reply, or failing that the oldest notice frame (R172,
log entry 7). -/
def Link.startNext (l : Link) : Link :=
  match l.sending, l.replies, l.noticeFrames with
  | some _, _, _ => l
  | none, r :: rs, _ => { l with sending := some (.reply r), replies := rs }
  | none, [], n :: ns => { l with sending := some (.notice n), noticeFrames := ns }
  | none, [], [] => l

end Sys2Proof.Machine
end

