-- ==== Sys2Proof/Machine/Sequencer.lean ====
section
/-! DEFINITION. The sequencer: the stages of MOVE, STOW, SCAN, the port audit, homing and parking, and what
each outcome or expiry of a stage leads to (chapters 4, 5 and 8). -/

namespace Sys2Proof.Machine

/-! ### Stages and their orders (R64, R68, R73) -/

/-- The order a stage sends. -/
def Stage.order : Stage → OrderKind
  | .home _ => .home
  | .unpark => .unpark
  | .travel _ => .travel
  | .pick => .pick
  | .identify => .read
  | .place => .place
  | .retract _ => .retract
  | .probe => .probe
  | .read => .read
  | .park => .park

/-- The picker state while a stage is in flight (R68). -/
def Stage.picker : Stage → Picker
  | .home _ => .homing
  | .park => .parking
  | _ => .busy

/-- A stage whose attempts are counted (R73, R79, R131). -/
def Stage.counted : Stage → Bool
  | .pick => true
  | .place => true
  | .probe => true
  | _ => false

/-- The job enters a stage; a PICK, PLACE or PROBE that first begins sets the retry count to 0 and keeps
the retry parameter in force (R73, R79). -/
def Job.enter (j : Job) (st : Stage) (retries : Nat) : Job :=
  if st.counted then { j with stage := some st, retry := 0, keptRetries := retries }
  else { j with stage := some st }

/-- Where a TRAVEL of the job goes. -/
def State.target (s : State) (j : Job) : Stage → Option Loc
  | .travel .source => s.running?.bind (·.source)
  | .travel .dest => s.running?.bind (·.dest)
  | .travel .scan => j.audit.map (·.current)
  | _ => none

/-- A stage of the current job begins: its order is sent (R73). -/
def State.beginStage (s : State) (st : Stage) : State :=
  match s.seq.job with
  | none => s
  | some j =>
    { s with
      seq :=
        { s.seq with
          job := some (j.enter st s.params.retries), picker := st.picker } }.sendOrder st.order
      (s.target j st)

/-- The next attempt of a stage: the count rises by one and the order is sent again (R79, R131). -/
def State.retryStage (s : State) (st : Stage) : State :=
  match s.seq.job with
  | none => s
  | some j =>
    { s with
      seq :=
        { s.seq with
          job := some { j with stage := some st, retry := j.retry + 1 },
          picker := st.picker } }.sendOrder st.order (s.target j st)

/-- Change the current job. -/
def State.modJob (s : State) (f : Job → Job) : State :=
  { s with seq := { s.seq with job := s.seq.job.map f } }

/-- The attempts of the stage are exhausted (R79, R131). -/
def Job.exhausted (j : Job) : Bool := j.keptRetries ≤ j.retry

/-! ### The return path and interruptions (R74, R81 to R83) -/

/-- The source is a home for the cartridge (R81). -/
def State.homeTest (s : State) (e : Entry) : Bool :=
  match e.source with
  | some (.slot p) => !s.map.retired p
  | some (.cell _) => s.port.state == .secured
  | some (.bay n) => (s.bay n).state == .empty
  | _ => false

/-- The result an interruption gives (R74). -/
def Interruption.result : Interruption → Result
  | .stop => .aborted
  | .driveRemoved => .driveRemoved
  | .portDisturbed => .portDisturbed

/-- The result of a return path that succeeds (R81). -/
def Cause.result : Cause → Result
  | .placeFailed => .placeFailed
  | .interrupted i => i.result
  | .returned => .returned
  | .confirmTimeout => .verifyTimeout

/-- The result when the home test fails (R82). -/
def Cause.noHome : Cause → Result
  | .placeFailed => .placeFailedHeld
  | c => c.result

/-- The cause is the job's own pending interruption, which is then consumed (log entry 11). -/
def Cause.pendingAfter (c : Cause) (i : Option Interruption) : Option Interruption :=
  match c with
  | .interrupted _ => none
  | _ => i

/-- The return path is given up: the entry ends with the cartridge in the gripper (R82). -/
def State.giveUp (s : State) (e : Entry) (r : Result) : State :=
  (s.entryDone e.tag r).enterHolding e.tag

/-- The return path is called for with a cause (R81). -/
def State.callReturn (s : State) (e : Entry) (c : Cause) : State :=
  if s.homeTest e then
    ((s.modEntry e.tag ({ · with state := .running })).modJob fun j =>
      { j with onReturn := some c, interruption := c.pendingAfter j.interruption }).beginStage
      (.travel .source)
  else s.giveUp e c.noHome

/-- A boundary of a MOVE at which no RETRACT or rehoming HOME is due (R81, R83). -/
def State.moveBoundary (s : State) (j : Job) (e : Entry) (go : State → State) : State :=
  match j.onReturn, j.interruption with
  | some c, _ => if s.homeTest e then go s else s.giveUp e c.noHome
  | none, none => go s
  | none, some i =>
    if e.placed.isSome then go s
    else if e.held then s.callReturn e (.interrupted i)
    else s.entryDone e.tag i.result

/-- A boundary of a STOW (R86). -/
def State.stowBoundary (s : State) (j : Job) (e : Entry) (go : State → State) : State :=
  match j.interruption with
  | some i => if e.placed.isSome then go s else s.entryDone e.tag i.result
  | none => go s

/-- The stage boundary (R74): the pending interruption or the home test is acted on, or the job goes on.
A SCAN's stop waits for the end of its location (R136); an abandoned port audit ends (R125). -/
def State.atBoundary (s : State) (go : State → State) : State :=
  match s.seq.job with
  | none => s
  | some j =>
    match j.kind, s.running? with
    | .entry _, some e =>
      match e.kind with
      | .move => s.moveBoundary j e go
      | .stow => s.stowBoundary j e go
      | .scan => go s
    | .portAudit, _ => if j.interruption.isSome then { s with seq := s.seq.endJob } else go s
    | _, _ => go s

/-- An interruption is raised for the entry whose job is in flight: it is recorded if none is pending, or
acted on at once for an entry in AWAITING_CONFIRM (R74, R97). -/
def State.interrupt (s : State) (e : Entry) (i : Interruption) : State :=
  if e.state = .awaitingConfirm then s.endHandOff.callReturn e (.interrupted i)
  else s.modJob fun j => { j with interruption := j.interruption.or (some i) }

/-! ### Audits (R123, R124, R130 to R138) -/

/-- A location that becomes current is audited by orders (R123, R130). -/
def State.byOrders (s : State) (forPort : Bool) : Loc → Bool
  | .slot _ => true
  | .cell _ => forPort || s.port.state == .secured
  | .bay n => (s.bay n).state == .ejected
  | .gripper => false

/-- A location becomes current: its before-values are recorded (R130). -/
def State.arrive (s : State) (forPort : Bool) (a : Audit) (x : Loc) (r : List Loc) : Audit :=
  { a with
    current := x, rest := r, byOrders := s.byOrders forPort x,
    beforeOcc := (s.inv.place x).occ, beforeLabel := (s.inv.place x).holds }

/-- The counts at the end of a location's sequence (R134). -/
def Audit.close (a : Audit) (o : Occ) (l : Option Label) (exhausted : Bool) : Audit :=
  { a with
    audited := a.audited + 1
    occupied := a.occupied + (o == .occupied && !exhausted).toNat
    changed := a.changed + (o != a.beforeOcc || l != a.beforeLabel).toNat }

/-- A bay. -/
def Loc.isBay : Loc → Bool
  | .bay _ => true
  | _ => false

/-- The counts after a location that called for no order (R133, R135). -/
def Audit.pass (a : Audit) : Audit :=
  { a with
    audited := a.audited + 1
    occupied := a.occupied + (a.current.isBay && a.beforeOcc == .occupied).toNat }

/-- Come to the locations of a list in turn, passing those that call for no order: the next location
audited by orders, or the counts at the end of the list. -/
def State.seek (s : State) (forPort : Bool) (a : Audit) : List Loc → Audit × Bool
  | [] => (a, false)
  | x :: r =>
    let b := s.arrive forPort a x r
    if b.byOrders then (b, true) else s.seek forPort b.pass r

/-- The counts of an audit that ends at a boundary (R134, R136, R138). -/
def Audit.counts (a : Audit) (first : Option Loc) : ScanCounts :=
  ⟨a.audited, a.occupied, a.changed, first⟩

/-- The port audit completes (R124). -/
def State.completeAudit (s : State) : State :=
  let cells := (List.range Config.portCells).map fun n =>
    ((s.inv.place (.cell n)).occ, (s.inv.place (.cell n)).holds)
  let s1 := s.askAttention (.portAudited cells)
  let s2 := s1.setPort { state := .secured, lock := true, mark := .noMark }
  { s2 with seq := s2.seq.endJob }

/-- The current location's sequence has ended and been counted: the stop is acted on, the next location
begins, or the audit ends (R124, R130, R136, R138). -/
def State.nextLocation (s : State) (a : Audit) : State :=
  match s.seq.job with
  | none => s
  | some j =>
    match j.kind with
    | .entry t =>
      if j.interruption.isSome && !a.rest.isEmpty then
        s.entryDone t .aborted (some (a.counts a.rest.head?))
      else
        match s.seek false a a.rest with
        | (b, true) => (s.modJob ({ · with audit := some b })).beginStage (.travel .scan)
        | (b, false) => s.entryDone t .ok (some (b.counts none))
    | _ =>
      match s.seek true a a.rest with
      | (b, true) => (s.modJob ({ · with audit := some b })).beginStage (.travel .scan)
      | (_, false) => s.completeAudit

/-- The audit of the current job. -/
def State.audit? (s : State) : Option Audit := s.seq.job.bind (·.audit)

/-- The current location's sequence ends with its orders taken. -/
def State.closeLocation (s : State) (exhausted : Bool) : State :=
  match s.audit? with
  | none => s
  | some a =>
    s.nextLocation (a.close (s.inv.place a.current).occ (s.inv.place a.current).holds exhausted)

/-- The first location of an audit, once the picker is ready: TRAVEL, or, where it calls for no order, it is
counted here and the next is come to, after the HOME or UNPARK that came first (R130, log entry 18). -/
def State.beginAudit (s : State) : State :=
  match s.audit? with
  | none => s
  | some a => if a.byOrders then s.beginStage (.travel .scan) else s.nextLocation a.pass

/-- A PROBE outcome is applied at the current location (R111, R122, R123, R131, R133).  A bay is still EJECTED
when its state is EJECTED as the outcome is taken, whatever it has been since its order (log entry 30). -/
def State.applyProbe (s : State) (x : Loc) (o : Occ) : State :=
  match x with
  | .bay n =>
    if (s.bay n).state = .ejected ∧ o = .empty then s.bayUpdate n .empty none else s
  | l => s.inventoryUpdate (s.seqPut l o none)

/-- A READ outcome is applied at the current location (R111, R122, R123, R132, R133), at a bay as a PROBE's is
(log entry 30). -/
def State.applyRead (s : State) (x : Loc) (l : Option Label) : State :=
  match x with
  | .bay n => if (s.bay n).state = .ejected then s.bayUpdate n .ejected l else s
  | y => s.inventoryUpdate (s.seqPut y .occupied l)

/-- PROBE EMPTY (R131). -/
def State.probeEmpty (s : State) : State :=
  match s.audit? with
  | none => s
  | some a => (s.applyProbe a.current .empty).atBoundary (·.closeLocation false)

/-- PROBE OCCUPIED: READ follows, but not at a cell the door has disturbed (R131, R135). -/
def State.probeOccupied (s : State) : State :=
  match s.audit? with
  | none => s
  | some a =>
    (s.applyProbe a.current .occupied).atBoundary fun s =>
      if a.current.isCell && !s.cellsKnown then s.closeLocation false else s.beginStage .read

/-- PROBE FAULT or expiry (R131). -/
def State.probeFault (s : State) : State :=
  match s.seq.job with
  | none => s
  | some j =>
    s.atBoundary fun s => if j.exhausted then s.closeLocation true else s.retryStage .probe

/-- The READ of an audit (R132). -/
def State.auditRead (s : State) (l : Option Label) : State :=
  match s.audit? with
  | none => s
  | some a => (s.applyRead a.current l).atBoundary (·.closeLocation false)

/-! ### MOVE and STOW (R75 to R79, R86, R88 to R90) -/

/-- The first proper stage of the job (R73). -/
def State.firstProper (s : State) : State :=
  match s.running? with
  | none => s.beginAudit
  | some e =>
    match e.kind with
    | .move => s.beginStage (.travel .source)
    | .stow => s.beginStage (.travel .dest)
    | .scan => s.beginAudit

/-- The confirm test calls for confirmation (R75, R88). -/
def Entry.needsConfirm (e : Entry) : Bool :=
  e.verify && (e.skipLabel || e.expected.isNone || e.labelRead.isNone || e.labelRead != e.expected)

/-- AWAITING_CONFIRM is entered and the VERIFY notice asked for (R89, R90). -/
def State.awaitConfirm (s : State) (e : Entry) : State :=
  ((s.modEntry e.tag ({ · with state := .awaitingConfirm })).modJob ({ · with stage := none })).askNotice
    (.verify e.tag (e.source.map s.view) (e.dest.map s.view) e.labelRead e.expected)

/-- The confirm test (R75). -/
def State.confirmTest (s : State) : State :=
  match s.running? with
  | none => s
  | some e => if e.needsConfirm then s.awaitConfirm e else s.beginStage (.travel .dest)

/-- The cartridge leaves the source for the gripper, as one update (R76, R111, R122). -/
def State.takeUp (s : State) (e : Entry) (x : Loc) : State :=
  let l := (s.inv.place x).holds
  match x with
  | .bay n =>
    (s.bayUpdate n (if (s.bay n).state = .absent then .absent else .empty) none
      (·.put .gripper .occupied l)).modBay n (Bay.forget e.tag)
  | y => s.inventoryUpdate fun v => (s.seqPut y .empty none v).put .gripper .occupied l

/-- PICK HELD (R76). -/
def State.pickHeld (s : State) : State :=
  match s.running? with
  | some e =>
    match e.source with
    | some x =>
      (((s.takeUp e x).reportSuccess (some x)).modEntry e.tag ({ · with held := true })).atBoundary
        fun s => if e.skipLabel then s.confirmTest else s.beginStage .identify
    | none => s
  | none => s

/-- The source is found empty (R76, R111, R122). -/
def State.findEmpty (s : State) (x : Loc) : State :=
  match x with
  | .bay n => s.bayUpdate n (s.derivedBay n) (s.derivedLabel n)
  | y => s.inventoryUpdate (s.seqPut y .empty none)

/-- PICK NONE (R76). -/
def State.pickNone (s : State) : State :=
  match s.running?.bind (·.source) with
  | some x => (s.findEmpty x).beginStage (.retract .pickNone)
  | none => s

/-- A FAULT or expiry of the last attempt is reported to the slot map (R79, R80). -/
def State.reportIfExhausted (s : State) (j : Job) (x : Option Loc) (t : Tag) : State :=
  if j.exhausted then s.reportFailure x t else s

/-- PICK FAULT or expiry (R79). -/
def State.pickFault (s : State) : State :=
  match s.seq.job, s.running? with
  | some j, some e => (s.reportIfExhausted j e.source e.tag).beginStage (.retract .pickFault)
  | _, _ => s

/-- The IDENTIFY stage's READ; nothing is read on NO_READ or expiry (R77). -/
def State.identified (s : State) (l : Option Label) : State :=
  match s.running? with
  | some e =>
    let s1 := s.modEntry e.tag ({ · with labelRead := l })
    let s2 :=
      if s.inv.gripper.holds = l then s1
      else s1.inventoryUpdate fun v => v.put .gripper v.gripper.occ l
    s2.atBoundary (·.confirmTest)
  | none => s

/-- The wait of an entry whose cartridge has been placed into a bay; none on the return path (R105). -/
def Job.loadWait (j : Job) (e : Entry) : Option (Tag × DriveWait) :=
  if j.onReturn.isSome then none else some (e.tag, .load)

/-- The cartridge leaves the gripper for a location, as one update (R78, R105, R122). -/
def State.putDown (s : State) (j : Job) (e : Entry) (x : Loc) : State :=
  let l := s.inv.gripper.holds
  match x with
  | .bay n =>
    if (s.bay n).state = .absent then
      (s.inventoryUpdate (·.put .gripper .empty none)).modBay n fun b =>
        { b with
          waiting := j.loadWait e
          loadResult := if j.onReturn.isSome then none else some .driveRemoved }
    else
      (s.bayUpdate n .loading l (·.put .gripper .empty none)).modBay n fun b =>
        { b with
          loadTimer := some s.params.loadLimit, waiting := j.loadWait e, loadResult := none }
  | y => s.inventoryUpdate fun v => (s.seqPut y .occupied l v).put .gripper .empty none

/-- PLACE PLACED (R78, R81, R86). -/
def State.placePlaced (s : State) : State :=
  match s.seq.job, s.running? with
  | some j, some e =>
    match j.placeAt e with
    | some x =>
      (((s.putDown j e x).reportSuccess (some x)).modEntry e.tag
        ({ · with placed := some s.inv.gripper.holds })).beginStage (.retract .placed)
    | none => s
  | _, _ => s

/-- PLACE FAULT or expiry (R79). -/
def State.placeFault (s : State) : State :=
  match s.seq.job, s.running? with
  | some j, some e => (s.reportIfExhausted j (j.placeAt e) e.tag).beginStage (.retract .placeFault)
  | _, _ => s

/-- A MOVE or STOW whose cartridge stands at its destination ends, or waits for the drive (R78). -/
def State.endPlaced (s : State) (e : Entry) : State :=
  match e.dest with
  | some (.bay n) =>
    match (s.bay n).loadResult with
    | some r => s.entryDone e.tag r
    | none =>
      let s1 := s.modEntry e.tag ({ · with state := .waitingDrive .load })
      { s1 with seq := s1.seq.endJob }
  | _ => s.entryDone e.tag .ok

/-- RETRACT DONE after PLACED (R78, R81, R86). -/
def State.retractPlaced (s : State) (j : Job) (e : Entry) : State :=
  match j.onReturn with
  | some c => s.entryDone e.tag c.result
  | none => (if e.kind = .stow then s.leaveHolding e.tag else s).endPlaced e

/-- RETRACT DONE after a failed PLACE (R79, R82, R86). -/
def State.retractPlaceFault (s : State) (j : Job) (e : Entry) : State :=
  if !j.exhausted then s.atBoundary (·.retryStage .place)
  else if j.onReturn.isSome then s.giveUp e .placeFailedHeld
  else if e.kind = .stow then s.entryDone e.tag .placeFailedHeld
  else s.callReturn e .placeFailed

/-- RETRACT DONE after a failed PICK (R79). -/
def State.retractPickFault (s : State) (j : Job) (e : Entry) : State :=
  if !j.exhausted then s.atBoundary (·.retryStage .pick) else s.entryDone e.tag .gripFailed

/-- RETRACT DONE (R76, R78, R79). -/
def State.retractDone (s : State) : State :=
  match s.seq.job, s.running? with
  | some j, some e =>
    match j.stage with
    | some (.retract .pickNone) => s.entryDone e.tag .sourceEmpty
    | some (.retract .pickFault) => s.retractPickFault j e
    | some (.retract .placed) => s.retractPlaced j e
    | some (.retract .placeFault) => s.retractPlaceFault j e
    | _ => s
  | _, _ => s

/-! ### TRAVEL, HOME, UNPARK and PARK (R69, R71, R72, R84, R155) -/

/-- The stage a TRAVEL leads to (R75, R81, R130). -/
def State.afterTravel (s : State) (t : TravelTo) : State :=
  match t, s.seq.job with
  | .scan, _ => s.beginStage .probe
  | .source, some j => s.beginStage (if j.onReturn.isSome then .place else .pick)
  | _, _ => s.beginStage .place

/-- TRAVEL REACHED. -/
def State.travelReached (s : State) : State :=
  match s.seq.job.bind (·.stage) with
  | some (.travel t) => s.atBoundary (·.afterTravel t)
  | _ => s

/-- A travel fault: the first is rehomed, the second is a mechanism fault (R84). -/
def State.travelFault (s : State) (next : AfterHome) : State :=
  match s.seq.job with
  | none => s
  | some j =>
    if j.travelRetried then s.mechanismFault
    else (s.modJob ({ · with travelRetried := true })).beginStage (.home next)

/-- TRAVEL FAULT or expiry (R84). -/
def State.travelFailed (s : State) : State :=
  match s.seq.job.bind (·.stage) with
  | some (.travel t) => s.travelFault (.travelAgain t)
  | _ => s

/-- UNPARK DONE (R72). -/
def State.unparkDone (s : State) : State := s.atBoundary (·.firstProper)

/-- UNPARK FAULT or expiry (R72, R84). -/
def State.unparkFailed (s : State) : State := s.travelFault .firstProper

/-- Homing REACHED: the gripper sensor decides between HOLDING and READY (R155). -/
def State.homingReached (s : State) : State :=
  let held := s.pins.gripper
  let s1 : State := { s with seq := s.seq.endJob, ctl := { s.ctl with ret := .ready } }
  let s2 := s1.inventoryUpdate (·.gripperSensed held)
  if held then s2.setMode .holding .homed else (s2.setMode .ready .homed).cancelStows

/-- HOME REACHED (R69, R84, R155). -/
def State.homeReached (s : State) : State :=
  match s.seq.job with
  | none => s
  | some j =>
    match j.kind, j.stage with
    | .homing _, _ => s.homingReached
    | _, some (.home .firstProper) => s.atBoundary (·.firstProper)
    | _, some (.home (.travelAgain t)) => s.atBoundary (·.beginStage (.travel t))
    | _, _ => s

/-- The second homing failure: entry to FAULTED with cause HOMING_FAILED (R155, R161).  No location record changes,
and the gripper's record stands as the start left it: R155's rule of this update governs over R16's of every entry
to FAULTED, since section 1.4 leaves each update to the chapter of its writer (R10; log entry 13, DEDUCED). -/
def State.homingFaulted (s : State) : State := (s.setMode .faulted .homingFailed).haltJob

/-- HOME FAULT or expiry (R69, R85, R155). -/
def State.homeFailed (s : State) : State :=
  match s.seq.job with
  | none => s
  | some j =>
    match j.kind with
    | .homing false => (s.modJob ({ · with kind := .homing true })).beginStage (.home .firstProper)
    | .homing true => s.homingFaulted
    | _ => s.mechanismFault

/-- Parking ends with the picker in a state (R71). -/
def State.parkEnds (s : State) (p : Picker) : State :=
  { s with seq := { s.seq with job := none, picker := p } }

/-! ### Taking an outcome (R64 to R66) -/

/-- The outcomes in an order's list (R64). -/
def OrderKind.allows : OrderKind → MechOutcome → Bool
  | .home, .reached => true
  | .home, .fault => true
  | .travel, .reached => true
  | .travel, .fault => true
  | .pick, .held => true
  | .pick, .noneFound => true
  | .pick, .fault => true
  | .place, .placed => true
  | .place, .fault => true
  | .retract, .done => true
  | .retract, .fault => true
  | .probe, .occupied => true
  | .probe, .empty => true
  | .probe, .fault => true
  | .park, .done => true
  | .park, .fault => true
  | .unpark, .done => true
  | .unpark, .fault => true
  | .read, .label _ => true
  | .read, .noRead => true
  | _, _ => false

/-- The outcome answers the outstanding order (R66). -/
def State.answers (s : State) (k : OrderKind) (n : Byte) (o : MechOutcome) : Bool :=
  match s.mech.outstanding with
  | some r => r.number == n && r.kind == k && k.allows o
  | none => false

/-- Take an outcome, or discard it, which changes nothing (R66). -/
def State.takeOutcome (s : State) (k : OrderKind) (n : Byte) (o : MechOutcome) (go : State → State) :
    State :=
  if s.answers k n o then go { s with mech := s.mech.clear } else s

/-- A READ outcome: of an IDENTIFY stage or of an audit (R77, R132). -/
def State.readTaken (s : State) (l : Option Label) : State :=
  match s.seq.job.bind (·.stage) with
  | some .identify => s.identified l
  | _ => s.auditRead l

/-- The label a READ outcome gives (R64). -/
def outcomeLabel : MechOutcome → Option Label
  | .label text => labelOutcome text
  | _ => none

/-- RETRACT FAULT or expiry (R85). -/
def State.retractFault (s : State) : State := s.mechanismFault

/-- The expiry of the stage timer, handled as a FAULT of its order, or as NO_READ (R65). -/
def State.expired (s : State) : OrderKind → State
  | .home => s.homeFailed
  | .travel => s.travelFailed
  | .pick => s.pickFault
  | .place => s.placeFault
  | .retract => s.retractFault
  | .probe => s.probeFault
  | .park => s.parkEnds .unhomed
  | .unpark => s.unparkFailed
  | .read => s.readTaken none

end Sys2Proof.Machine
end

