-- ==== Sys2Proof/Machine/Arbiter.lean ====
section
/-! DEFINITION. The picker arbiter: eligibility, eject assertion, start checks, the choice, and the events
that cause one (R49 to R54, R107, R123). -/

namespace Sys2Proof.Machine

/-- The picker is free (R49, R68). -/
def Sequencer.free (q : Sequencer) : Bool :=
  q.job.isNone && (q.picker == .idle || q.picker == .parked || q.picker == .unhomed)

/-- The mode is READY or MAINTENANCE. -/
def LibMode.serves : LibMode → Bool
  | .ready => true
  | .maintenance => true
  | _ => false

/-- The mode permits the kind (R49). -/
def LibMode.permits (m : LibMode) : ReqKind → Bool
  | .stow => m == .holding
  | _ => m.serves

/-- The tag heads the claim list of every location the entry names (R49). -/
def State.headsClaims (s : State) (e : Entry) : Bool :=
  e.names.all fun x => (s.inv.place x).claims.head? == some e.tag

/-- The source bay of a MOVE. -/
def Entry.sourceBay (e : Entry) : Option Nat :=
  match e.kind, e.source with
  | .move, some (.bay n) => some n
  | _, _ => none

/-- The conditions of R49 but for the picker and the source bay. -/
def State.mayRun (s : State) (e : Entry) : Bool :=
  e.state == .queued && s.headsClaims e && s.ctl.mode.permits e.kind && !s.queue.hold

/-- The source bay lets a MOVE be selected (R49). -/
def State.sourceReady (s : State) (e : Entry) : Bool :=
  match e.sourceBay with
  | some n =>
    (s.bay n).state == .ejected || (s.bay n).state == .empty || (s.bay n).state == .absent
  | none => true

/-- Eligible, with the picker free (R49). -/
def State.eligible (s : State) (e : Entry) : Bool := s.mayRun e && s.sourceReady e

/-- The bay an eject candidate asks to eject (R50). -/
def State.ejectFor (s : State) (e : Entry) : Option Nat :=
  match e.sourceBay with
  | some n => if s.mayRun e && (s.bay n).state == .loaded then some n else none
  | none => none

/-- Eject is asserted for a candidate, which waits for it (R50, R107).  EJECTING is OCCUPIED as LOADED is,
so no record changes. -/
def State.assertEject (s : State) (e : Entry) (n : Nat) : State :=
  (s.modBay n fun b =>
    { b with
      state := .ejecting, eject := true, ejectTimer := some s.params.ejectLimit,
      waiting := some (e.tag, .eject) }).modEntry e.tag ({ · with state := .waitingDrive .eject })

/-- The eject assertions of a choice (R50). -/
def State.assertEjects (s : State) : State :=
  s.queue.entries.foldl
    (fun a e => match a.ejectFor e with
      | some n => a.assertEject e n
      | none => a) s

/-- An absent drive at a destination bay. -/
def State.absentBay (s : State) : Loc → Bool
  | .bay n => (s.bay n).state == .absent
  | _ => false

/-- A retired slot. -/
def State.isRetired (s : State) : Loc → Bool
  | .slot p => s.map.retired p
  | _ => false

/-- The checks of a destination at selection (R53 checks 3 to 5, R54 checks 2 to 4). -/
def State.destStart (s : State) (d : Loc) : Option Result :=
  if (s.inv.place d).occ = .occupied then some .destinationFull
  else if s.isRetired d then some .destinationRetired
  else if s.absentBay d then some .driveRemoved
  else none

/-- The start checks: the result that ends the entry, or none when they pass (R52 to R54). -/
def State.startCheck (s : State) (e : Entry) : Option Result :=
  match e.kind, e.source, e.dest with
  | .move, some x, some d =>
    if (s.inv.place x).occ = .unknown ∨ (s.inv.place d).occ = .unknown then some .locationUnknown
    else if (s.inv.place x).occ = .empty then some .sourceEmpty
    else s.destStart d
  | .stow, _, some d =>
    if (s.inv.place d).occ = .unknown then some .locationUnknown else s.destStart d
  | _, _, _ => none

/-- A job as it starts (R73). -/
def Job.fresh (k : JobKind) (a : Option Audit) : Job where
  kind := k
  stage := none
  onReturn := none
  retry := 0
  keptRetries := 0
  travelRetried := false
  interruption := none
  audit := a

/-- The audit of a list as the job begins: its first location is current (R130). -/
def State.auditStart (s : State) (forPort : Bool) : List Loc → Option Audit
  | [] => none
  | x :: r => some (s.arrive forPort ⟨x, r, true, .empty, none, 0, 0, 0⟩ x r)

/-- The job takes the picker and its first stage begins: HOME if UNHOMED, UNPARK if PARKED, otherwise the
first proper stage (R69, R72, R73). -/
def State.startJob (s : State) (j : Job) : State :=
  let s1 : State := { s with seq := { s.seq with job := some j } }
  match s.seq.picker with
  | .unhomed => s1.beginStage (.home .firstProper)
  | .parked => s1.beginStage .unpark
  | _ => { s1 with seq := { s1.seq with picker := .busy } }.firstProper

/-- A selected entry becomes RUNNING (R52, R73). -/
def State.startEntry (s : State) (e : Entry) : State :=
  let held := e.kind == .stow
  (s.modEntry e.tag fun x => { x with state := .running, held := x.held || held }).startJob
    (Job.fresh (.entry e.tag) (e.scan.bind fun g => s.auditStart false g.locs))

/-- The port audit takes the picker (R123). -/
def State.startAudit (s : State) : State :=
  { s with port := { s.port with mark := .running } }.startJob
    (Job.fresh .portAudit (s.auditStart true ((List.range Config.portCells).map .cell)))

/-- The port audit is selected (R52). -/
def State.auditDue (s : State) : Bool :=
  s.port.state == .auditPending && s.port.mark == .pending && s.ctl.mode.serves && !s.queue.hold

/-- A choice that selects cancels the park timer (R52, R70). -/
def State.cancelPark (s : State) : State := { s with seq := { s.seq with parkTimer := none } }

/-- A choice that selects nothing starts the park timer (R52, R70). -/
def State.startPark (s : State) : State :=
  if s.seq.picker = .idle ∧ s.seq.parkTimer = none ∧ s.params.parkDelay ≠ 0 then
    { s with seq := { s.seq with parkTimer := some s.params.parkDelay } }
  else s

/-- Choices made one after another while the picker stays free: each ends an entry at its start checks or
selects a job, and the last selects nothing (R51, R52). -/
def State.choices : Nat → State → State
  | 0, s => s
  | n + 1, s =>
    if s.seq.free then
      let a := s.assertEjects
      if a.auditDue then a.cancelPark.startAudit
      else
        match a.queue.entries.find? fun e => a.eligible e with
        | none => a.startPark
        | some e =>
          match a.startCheck e with
          | some r => State.choices n (a.cancelPark.entryDone e.tag r)
          | none => State.choices n (a.cancelPark.startEntry e)
    else s

/-- Two records of one entry. -/
def Entry.same (e o : Entry) : Bool := o.tag == e.tag && o.accNumber == e.accNumber

/-- An entry has reached DONE, or has become QUEUED from a wait, since the queue was `old` (R51). -/
def Entry.movedOn (old : List Entry) (e : Entry) : Bool :=
  (e.state == .done || e.state == .queued) && old.any e.same
    && !old.any fun o => e.same o && o.state == e.state

/-- What happened between the two states causes a choice (R51, log entry 8). -/
def State.choiceDue (old new : State) : Bool :=
  (new.seq.free && !old.seq.free)
    || new.queue.accepted != old.queue.accepted
    || new.queue.entries.any (Entry.movedOn old.queue.entries)
    || new.bays.map (·.state) != old.bays.map (·.state)
    || new.port.state != old.port.state
    || new.ctl.mode != old.ctl.mode
    || (old.queue.hold && !new.queue.hold)

/-- The choices an event causes (R51). -/
def State.choose (old new : State) : State :=
  if State.choiceDue old new then State.choices (new.queue.entries.length + 1) new else new

/-- The end of a command taken in state `old` whose own effect gives `new`: the arbiter's choices, then
the transmitter (log entries 7 and 8). -/
def State.settle (old new : State) : State :=
  let s := State.choose old new
  { s with link := s.link.startNext }

/-- A command's answer: nothing happens to a part without power (log entry 12). -/
def State.event (s : State) (f : State → State) : Answer :=
  if s.powered then .next (State.settle s (f s)) else .next s

end Sys2Proof.Machine
end

