-- ==== Sys2Proof/Machine/PowerEvents.lean ====
section
/-! DEFINITION. Starts, the power-on values of every block, POWER_ON, POWER_LOSS, RESET_FULL_RELOAD and
BANK_WRITE_COMPLETE (R1, R14, R33 to R38, R61, R87, R112, R126, R150, R154, R163, R173, R174). -/

namespace Sys2Proof.Machine

/-! ### Starts (R154) -/

/-- Homing begins: its first HOME is sent (R155). -/
def State.beginHoming (s : State) : State :=
  { s with seq := { s.seq with job := some (Job.fresh (.homing false) none) } }.beginStage
    (.home .firstProper)

/-- The mode a start sets (R154). -/
def State.startMode (s : State) : LibMode := if s.ctl.stopLine then .stopped else .initializing

/-- Homing begins when the line is released. -/
def State.homeIfReleased (s : State) : State := if s.ctl.stopLine then s else s.beginHoming

/-- A start at RESET SOFT or RECOVER: MODE_CHANGED when the mode differs (R154). -/
def State.restart (s : State) (c : ModeCause) : State :=
  (if s.ctl.mode = s.startMode then s else s.setMode s.startMode c).homeIfReleased

/-- A start at power-on or after the reload: MODE_CHANGED with cause START and no previous mode (R153,
R154). -/
def State.start (s : State) : State :=
  ({ s with ctl := { s.ctl with mode := s.startMode } }.askAttention
    (.modeChanged none s.startMode none .start none)).homeIfReleased

/-! ### Power-on values -/

/-- The map store loads a valid bank (R33), and the map is adjusted where needed (R34). -/
def State.loadFrom (s : State) (i : BankId) : State :=
  let g := (s.store.bank i).image
  let m : SlotMap := ⟨g.base, g.grown, g.exposed, List.replicate s.nPhys 0⟩
  let s1 : State :=
    { s with
      map := m, params := g.params,
      store := { s.store with newest := some i, newestGen := g.generation } }
  match m.adjusted s.nPhys with
  | none => s1
  | some m' =>
    let s2 : State := { s1 with map := m' }
    (s2.askAttention
      (.mapAdjusted s2.available s2.map.exposed s2.map.base.length s2.map.grown.length)).askCommit

/-- Neither bank is valid: the map store defaults (R33). -/
def State.loadDefault (s : State) : State :=
  ({ s with
    map := SlotMap.defaulted s.nPhys, params := Params.default,
    store := { s.store with newest := none, newestGen := 0 } }.askAttention .storeDefaulted).askCommit

/-- The load of the map store (R33). -/
def State.load (s : State) : State :=
  let s1 : State :=
    { s with
      store :=
        { s.store with commit := none, commitPending := false, unsaved := false, wait := none } }
  match s1.store.loadBank with
  | some i => s1.loadFrom i
  | none => s1.loadDefault

/-- A bay's record from its lines (R112). -/
def State.bayAtPower (s : State) (n : Nat) : Bay := { Bay.noDrive with state := s.derivedBay n }

/-- A location's record with an occupancy, no label and no claims. -/
def PlaceRec.plain (o : Occ) : PlaceRec := ⟨o, none, false, []⟩

/-- The inventory at power-on (R14). -/
def State.invAtPower (s : State) : Inventory where
  slots := List.replicate s.nPhys PlaceRec.notKnown
  bays := (List.range s.nBays).map fun n => PlaceRec.plain (s.derivedBay n).occ
  cells := List.replicate Config.portCells PlaceRec.notKnown
  gripper := PlaceRec.plain (if s.pins.gripper then .occupied else .empty)

/-- The port at power-on (R126). -/
def Port.atPower (doorOpen : Bool) : Port :=
  if doorOpen then ⟨.opened, false, .noMark⟩ else ⟨.auditPending, true, .pending⟩

/-- No notices, numbered from 0 (R150). -/
def Notices.atPower : Notices := ⟨[], [], [], 0, none⟩

/-- No job, the picker UNHOMED (R87). -/
def Sequencer.atPower : Sequencer := ⟨none, .unhomed, none, none⟩

/-- No order, order number 0 (R64, R87). -/
def Mech.atPower : Mech := ⟨none, 0, none⟩

/-- No entries (R61). -/
def Queue.atPower : Queue := ⟨[], false, 0⟩

/-- Every block but the link and the emergency-stop line takes its power-on values, from the straps and
lines as they stand; the map store loads last (R14, R22, R33, R61, R87, R112, R126, R150, R152). -/
def State.powerUp (s : State) : State :=
  { s with
    queue := Queue.atPower, inv := s.invAtPower, seq := Sequencer.atPower, mech := Mech.atPower,
    bays := (List.range s.nBays).map s.bayAtPower, port := Port.atPower s.pins.doorOpen,
    notices := Notices.atPower, ctl := { s.ctl with ret := .ready } }.load

/-- The link's power-on values (R173). -/
def Link.atPower : Link := ⟨.hunting, none, none, false, none, [], [], none⟩

/-! ### Loss of power (R38) -/

/-- What a loss of power leaves of a commit in flight: the target bank invalid, or holding its earlier
copy, as the free value of log entry 3 has it. -/
def State.breakCommit (s : State) : State :=
  match s.store.commit with
  | none => s
  | some c =>
    { s with
      store :=
        (if Config.keepsEarlierCopy s.freeNext then s.store.setBank c.target c.earlier else s.store),
      freeNext := s.freeNext + 1 }

/-- The part without power: the banks stand, and everything in ordinary memory is gone (R38, R145, R151).
The values written here are no values of the part (log entry 12). -/
def State.dark (s : State) : State :=
  { s with
    powered := false, link := Link.atPower, queue := Queue.atPower,
    inv := ⟨[], [], [], PlaceRec.vacant⟩, map := ⟨[], [], 0, []⟩,
    store := ⟨s.store.bank0, s.store.bank1, none, 0, none, false, false, none⟩,
    params := Params.default, seq := Sequencer.atPower, mech := Mech.atPower, bays := [],
    port := ⟨.released, false, .noMark⟩, notices := Notices.atPower,
    ctl := ⟨.initializing, .ready, false⟩ }

/-- POWER_LOSS (R38). -/
def execPowerLoss (s : State) : Answer :=
  if s.powered then .next s.breakCommit.dark else .next s

/-- Power-on with the straps and lines given (R1, R154). -/
def State.powerOn (s : State) (straps : Straps) (pins : Pins) (stop : Bool) : State :=
  let s1 : State :=
    { s.dark with powered := true, straps := straps, pins := pins, ctl := ⟨.initializing, .ready, stop⟩ }
  s1.powerUp.start

/-- POWER_ON (R154).  While the part is powered it stands for a loss of power and a power-on (log entry
12). -/
def execPowerOn (straps : Straps) (pins : Pins) (stop : Bool) (s : State) : Answer :=
  let s1 := if s.powered then s.breakCommit else s
  let s2 := s1.powerOn straps pins stop
  .next (State.settle s2 s2)

/-! ### RESET FULL's reload (R163, R174) -/

/-- The interval of RESET FULL ends: the link takes its power-on values but for the transmit list (R174). -/
def Link.reopen (l : Link) : Link :=
  { l with
    receiver := .hunting, lastSeq := none, cache := none, replyPending := false, resetWait := none }

/-- The reload has been taken; the interval ends here if the reply has gone (R174). -/
def Link.reloaded (l : Link) : Link :=
  match l.resetWait with
  | some w => if w.replySent then l.reopen else { l with resetWait := some { w with reloaded := true } }
  | none => l

/-- The reload may be taken: RESET FULL waits for it and no commit is in flight (R163). -/
def State.reloadReady (s : State) : Bool :=
  (match s.link.resetWait with
    | some w => !w.reloaded
    | none => false) && s.store.commit.isNone

/-- The reload of RESET FULL: the notice queue's waiting frames leave the transmit list, every block takes
its power-on values, and a start is taken (R163, R172, R173). -/
def State.reload (s : State) : State :=
  ({ s with link := { s.link.reloaded with noticeFrames := [] } }).powerUp.start

/-- RESET_FULL_RELOAD (R163). -/
def execResetFullReload (x : Sense) (s : State) : Answer :=
  s.event fun s => if s.reloadReady then (s.sample x).reload else s

/-! ### The end of a bank write (R35 to R37) -/

/-- RESET FULL waits for its reload, so no pending commit starts (R38). -/
def State.awaitsReload (s : State) : Bool :=
  match s.link.resetWait with
  | some w => !w.reloaded
  | none => false

/-- The deferred reply that waited on the commit is sent, or waits on the next (R37). -/
def State.answerDeferred (s : State) (st : Status) : State :=
  match s.store.wait with
  | none => s
  | some w =>
    if w.onPending then { s with store := { s.store with wait := some { w with onPending := false } } }
    else { s with store := { s.store with wait := none } }.reply w.seq w.kind st

/-- The commit has finished: the reply that waited goes out, and a pending commit starts (R35, R37). -/
def State.finishCommit (s : State) (st : Status) : State :=
  let s1 := ({ s with store := { s.store with commit := none } }).answerDeferred st
  if s1.store.commitPending && !s1.awaitsReload then
    { s1 with store := { s1.store with commitPending := false } }.startCommit
  else s1

/-- The write succeeded: the target is the newest bank (R35). -/
def State.commitSucceeds (s : State) (c : Commit) : State :=
  { s with
    store :=
      { s.store.setBank c.target ⟨c.image, true⟩ with
        newest := some c.target, newestGen := c.image.generation,
        unsaved := false } }.finishCommit .stored

/-- The retry failed as well: the target bank is invalid and STORE_FAULT is asked for (R36). -/
def State.commitFails (s : State) (c : Commit) : State :=
  ({ s with store := { s.store with unsaved := true } }.askAttention
    (.storeFault c.target c.image.generation)).finishCommit .notStored

/-- The bank write in flight has finished (R35, R36). -/
def State.writeTaken (s : State) (ok : Bool) : State :=
  match s.store.commit with
  | none => s
  | some c =>
    if ok then s.commitSucceeds c
    else if c.retrying then s.commitFails c
    else { s with store := { s.store with commit := some { c with retrying := true } } }

/-- BANK_WRITE_COMPLETE (R36). -/
def execBankWriteComplete (ok : Bool) (s : State) : Answer := s.event (·.writeTaken ok)

end Sys2Proof.Machine
end

