-- ==== Sys2Proof/Machine/LinkEvents.lean ====
section
/-! DEFINITION. The Handler Link: how a good frame is taken (R169 to R171), and the rows of the link's own
events (R168, R172, R174). -/

namespace Sys2Proof.Machine

/-! ### Taking a good frame (R169) -/

/-- The frame is accepted: its SEQ is recorded, the cache emptied and the pending-reply mark set. -/
def Link.accept (l : Link) (seq : Byte) : Link :=
  { l with lastSeq := some seq, cache := none, replyPending := true }

/-- A duplicate: the cached reply is placed on the transmit list again, unless a reply is pending. -/
def Link.repeatReply (l : Link) : Link :=
  match l.replyPending, l.cache with
  | false, some f => { l with replies := l.replies ++ [⟨f, false⟩] }
  | _, _ => l

/-- The frame is answered LINK_BUSY and leaves no trace. -/
def Link.busy (l : Link) (seq kind : Byte) : Link :=
  { l with replies := l.replies ++ [⟨replyFrame seq kind .linkBusy [], false⟩] }

/-- A good frame is taken; when it is accepted, `act` takes the request (R169, R174).  The receiver hunts
again.  A BODY no frame can carry is no frame (log entry 6). -/
def State.takeFrame (s : State) (seq kind : Byte) (body : List Byte) (act : State → State) : State :=
  if Config.bodyMax < body.length then s
  else
    let l := { s.link with receiver := .hunting }
    if l.resetWait.isSome then { s with link := l }
    else if l.lastSeq = some seq then { s with link := l.repeatReply }
    else if l.replyPending then { s with link := l.busy seq kind }
    else act { s with link := l.accept seq }

/-- A request with a body of form `α`: refused BAD_FORMAT with the offset at fault, or taken by `act`
(R177, R181). -/
def State.request {α : Type} (s : State) (seq kind : Byte) (body : List Byte)
    (parse : List Byte → Except Nat α) (act : State → α → State) : Answer :=
  s.event fun s => s.takeFrame seq kind body fun s =>
    match parse body with
    | .error o => s.reply seq kind .badFormat [byteOf o]
    | .ok b => act s b

/-- UNKNOWN_REQUEST (R171).  A KIND of the catalogue is not this row's and changes nothing (log entry
6). -/
def execUnknownRequest (seq kind : Byte) (body : List Byte) (s : State) : Answer :=
  s.event fun s =>
    if isRequestKind kind then s
    else s.takeFrame seq kind body fun s => s.reply seq kind .unknownRequest

/-! ### The receiver (R168) -/

/-- The receiver takes a state; nothing else of the link changes. -/
def State.receive (s : State) (r : Receiver) : State := { s with link := { s.link with receiver := r } }

/-- The receiver `r` takes the bytes of a run.  A run with a good frame in it is the request's row and
changes nothing (log entries 6 and 24). -/
def State.receiveAll (s : State) (r : Receiver) (bs : List Byte) : State :=
  match r.takeAll bs with
  | some r' => s.receive r'
  | none => s

/-- SYNC_RECEIVED (R168): the sync value begins a frame while hunting, and is data while assembling. -/
def execSyncReceived (s : State) (following : List Byte := []) : Answer :=
  s.event fun s => s.receiveAll s.link.receiver (Config.sync :: following)

/-- FRAME_BAD_CHECK (R168): the bytes are those of a complete frame and their check is bad. -/
def execFrameBadCheck (bytes : List Byte) (s : State) : Answer :=
  s.event fun s => if completeFrame bytes && !goodCheck bytes then s.receive .hunting else s

/-- FRAME_LENGTH_EXCEEDED (R168): hunting resumes at the two bytes of the LENGTH. -/
def execFrameLengthExceeded (length : Word16) (s : State) (following : List Byte := []) : Answer :=
  s.event fun s =>
    if Config.bodyMax < length.toNat then s.receiveAll (Receiver.rehuntLength length) following else s

/-- INTER_BYTE_GAP_TIMEOUT (R168): the byte that ended the gap is examined as a possible SYNC. -/
def execInterByteGapTimeout (byte : Byte) (s : State) (following : List Byte := []) : Answer :=
  s.event fun s =>
    match s.link.receiver with
    | .hunting => s
    | .assembling _ => s.receiveAll (Receiver.hunt byte) following

/-- BYTE_WITHOUT_STOP_BIT (R168). -/
def execByteWithoutStopBit (s : State) : Answer := s.event (·.receive .hunting)

/-! ### The transmitter (R172, R174) -/

/-- The RESET reply has gone; the interval of RESET FULL ends here if the reload has been taken (R174). -/
def Link.resetReplySent (l : Link) : Link :=
  match l.resetWait with
  | some w => if w.reloaded then l.reopen else { l with resetWait := some { w with replySent := true } }
  | none => l

/-- The frame in course of sending has been sent whole. -/
def Link.sent (l : Link) : Link :=
  match l.sending with
  | none => l
  | some (.reply r) =>
    if r.closesReset then { l with sending := none }.resetReplySent else { l with sending := none }
  | some (.notice _) => { l with sending := none }

/-- FRAME_SENT (R172): the next frame is chosen at the end of the event. -/
def execFrameSent (s : State) : Answer := s.event fun s => { s with link := s.link.sent }

end Sys2Proof.Machine
end

