-- ==== Sys2Proof/Machine/HostQueries.lean ====
section
/-! DEFINITION. The five queries: DESCRIBE, QUERY_STATUS, QUERY_LOCATIONS, QUERY_REQUEST, QUERY_MAP (R12,
R13, R31, R60, R164, R182, R183). -/

namespace Sys2Proof.Machine

/-- An immediate OK reply with fields. -/
def State.ok (s : State) (seq kind : Byte) (fields : List Byte := []) : State :=
  s.reply seq kind .ok fields

/-! ### DESCRIBE and QUERY_STATUS (R164, R182) -/

/-- DESCRIBE's fields. -/
def State.describeFields (s : State) : List Byte :=
  be16 Config.identity ++ [Config.revision] ++
    ([s.nPhys, s.nBays, Config.portCells, Config.queueCapacity, Config.noticeCapacity, Config.labelMax,
      s.available, s.map.exposed, (s.map.freeSpares s.nPhys).length, (s.map.lost s.nPhys).length,
      s.map.base.length, s.map.grown.length].map byteOf)

/-- DESCRIBE. -/
def execDescribe (seq : Byte) (body : List Byte) (s : State) : Answer :=
  s.request seq 0x01#8 body parseEmpty fun s _ => s.ok seq 0x01#8 s.describeFields

/-- The internal job in progress: none, homing, parking or port audit (R164, R185). -/
def Sequencer.internalJob (q : Sequencer) : Byte :=
  match q.job.map Job.kind with
  | some (.homing _) => 0x01#8
  | some .parking => 0x02#8
  | some .portAudit => 0x03#8
  | _ => 0x00#8

/-- QUERY_STATUS's fields. -/
def State.statusFields (s : State) : List Byte :=
  [s.ctl.mode.code, optByte (if s.ctl.mode = .holding then some s.ctl.ret.lib.code.toNat else none),
    statusFlags s.queue.hold s.ctl.stopLine s.store.unsaved s.store.commit.isSome s.store.commitPending,
    s.seq.picker.code, s.seq.internalJob, s.port.state.code, s.port.mark.code]
  ++ optTag ((s.queue.entries.find? (·.holdsPicker)).map (·.tag))
  ++ [byteOf s.queue.entries.length, byteOf s.notices.queue.length, byteOf s.notices.admission.length]
  ++ be16 (summaryBits s.notices.summary)
  ++ [optByte (s.store.newest.map (·.code.toNat))] ++ be32 s.store.newestGen

/-- QUERY_STATUS. -/
def execQueryStatus (seq : Byte) (body : List Byte) (s : State) : Answer :=
  s.request seq 0x02#8 body parseEmpty fun s _ => s.ok seq 0x02#8 s.statusFields

/-! ### QUERY_LOCATIONS (R12, R13, R182, R183) -/

/-- The end of a full record: label field and claim list. -/
def PlaceRec.tail (p : PlaceRec) : List Byte :=
  labelField p.holds ++ [byteOf p.claims.length] ++ p.claims

/-- The record of a physical slot, under the kind, index and cross-number given. -/
def State.slotRecord (s : State) (kind index : Nat) (cross : Option Nat) (p : Nat) : List Byte :=
  let r := s.inv.place (.slot p)
  [byteOf kind, byteOf index, recordFlags r.dup (s.map.retired p) false, r.occ.code, optByte cross,
    byteOf (s.map.faultCount p), 0xFF#8] ++ r.tail

/-- The record of a location that is no slot; `st` is its bay or port state. -/
def State.otherRecord (s : State) (x : Loc) (st : Byte) : List Byte :=
  let r := s.inv.place x
  x.codes ++ [recordFlags r.dup false false, r.occ.code, 0xFF#8, 0xFF#8, st] ++ r.tail

/-- The record of one index of a range. -/
def State.record (s : State) (k : RefKind) (i : Nat) : List Byte :=
  match k with
  | .logical =>
    match s.map.physOf s.nPhys i with
    | some p => s.slotRecord 0 i (some p) p
    | none => [0x00#8, byteOf i, recordFlags false false true]
  | .physical => s.slotRecord 1 i (s.map.logicalOf s.nPhys i) i
  | .bay => s.otherRecord (.bay i) (s.bay i).state.code
  | .port => s.otherRecord (.cell i) s.port.state.code
  | .label => []
  | .gripper => s.otherRecord .gripper 0xFF#8

/-- The refusal of a range, if one of its checks fails (R12). -/
def State.rangeRefusal (s : State) (q : RangeBody) : Option Status :=
  if q.kind = .label then some .referenceNotAllowed
  else if q.last < q.first then some .outOfRange
  else
    match q.kind with
    | .logical => if q.last < s.map.exposed then none else some .noSuchLocation
    | .physical => if q.last < s.nPhys then none else some .noSuchLocation
    | .bay => if q.last < s.nBays then none else some .driveAbsent
    | .port => if q.last < Config.portCells then none else some .noSuchLocation
    | .gripper => if q.first = 0 ∧ q.last = 0 then none else some .noSuchLocation
    | .label => some .referenceNotAllowed

/-- The records a reply carries, with `room` record places and `bytes` bytes left: the records, their
number, and the index of the first record not carried (R183). -/
def State.fill (s : State) (k : RefKind) (last : Nat) : Nat → Nat → Nat → List Byte × Nat × Option Nat
  | 0, i, _ => ([], 0, if i ≤ last then some i else none)
  | room + 1, i, bytes =>
    if last < i then ([], 0, none)
    else
      let r := s.record k i
      if r.length ≤ bytes then
        let t := s.fill k last room (i + 1) (bytes - r.length)
        (r ++ t.1, t.2.1 + 1, t.2.2)
      else ([], 0, some i)

/-- The most records of one reply (R13). -/
def recordsMax : Nat := 8

/-- The bytes a reply's records may take (R183). -/
def recordRoom : Nat := Config.bodyMax - 4

/-- QUERY_LOCATIONS's fields. -/
def State.rangeFields (s : State) (q : RangeBody) : List Byte :=
  let t := s.fill q.kind q.last recordsMax q.first recordRoom
  [byteOf t.2.1, optByte t.2.2] ++ t.1

/-- QUERY_LOCATIONS. -/
def execQueryLocations (seq : Byte) (body : List Byte) (s : State) : Answer :=
  s.request seq 0x03#8 body parseRange fun s q =>
    match s.rangeRefusal q with
    | some st => s.reply seq 0x03#8 st
    | none => s.ok seq 0x03#8 (s.rangeFields q)

/-! ### QUERY_REQUEST (R60, R182) -/

/-- The stage belongs to the return path when the job is on it: TRAVEL_SOURCE, PLACE and RETRACT (R81).  A
rehoming HOME in the middle of the path does not (log entry 29). -/
def Stage.ofReturn : Stage → Bool
  | .travel .source => true
  | .place => true
  | .retract _ => true
  | _ => false

/-- The current stage, its flags and its location in QUERY_REQUEST: present while the entry is RUNNING. -/
def State.stageFields (s : State) (e : Entry) : List Byte :=
  match s.seq.job, e.state with
  | some j, .running =>
    if j.kind = .entry e.tag then
      [optByte (j.stage.bind Stage.code), flagByte (j.onReturn.isSome && j.stage.any Stage.ofReturn)]
        ++ locField (j.audit.map fun a => s.view a.current)
    else [0xFF#8, 0x00#8] ++ locField none
  | _, _ => [0xFF#8, 0x00#8] ++ locField none

/-- The scan range fields. -/
def Entry.rangeFields (e : Entry) : List Byte :=
  match e.scan with
  | some g => [g.kind.code, g.first, g.last, byteOf g.locs.length]
  | none => [0xFF#8, 0x00#8, 0x00#8, 0x00#8]

/-- The scan count fields. -/
def State.countFields (s : State) (e : Entry) : List Byte :=
  match e.state, e.counts with
  | .done, some c =>
    [byteOf c.audited, byteOf c.occupied, byteOf c.changed] ++ locField (c.firstNot.map s.view)
  | _, _ => [0x00#8, 0x00#8, 0x00#8] ++ locField none

/-- The drive wait field. -/
def EntryState.waitByte : EntryState → Byte
  | .waitingDrive w => w.code
  | _ => 0xFF#8

/-- QUERY_REQUEST's fields for the entry at a position of the queue. -/
def State.requestFields (s : State) (e : Entry) (position : Nat) : List Byte :=
  [e.tag, e.kind.code] ++ be32 e.accNumber ++ [e.state.code, e.state.waitByte]
  ++ s.stageFields e ++ locField (e.source.map s.view) ++ locField (e.dest.map s.view)
  ++ [if e.kind = .move then moveFlags e.verify e.skipLabel else 0xFF#8]
  ++ labelField e.expected ++ e.rangeFields ++ labelField e.labelRead
  ++ [optByte (e.result.map (·.code.toNat))] ++ s.countFields e
  ++ [flagByte e.noticeQueued, byteOf position]

/-- QUERY_REQUEST. -/
def execQueryRequest (seq : Byte) (body : List Byte) (s : State) : Answer :=
  s.request seq 0x04#8 body parseByte fun s t =>
    match s.entry? t with
    | none => s.reply seq 0x04#8 .noSuchTag
    | some e =>
      s.ok seq 0x04#8
        (s.requestFields e (s.queue.entries.findIdx fun x => x.tag == t))

/-! ### QUERY_MAP (R31, R182) -/

/-- An entry of the grown list as QUERY_MAP writes it. -/
def GrownEntry.bytes (g : GrownEntry) : List Byte :=
  [byteOf g.slot, optByte g.logical, optByte g.substitute]

/-- A list of numbers after its length. -/
def counted (ns : List Nat) : List Byte := byteOf ns.length :: ns.map byteOf

/-- QUERY_MAP's fields. -/
def State.mapFields (s : State) : List Byte :=
  [byteOf s.nPhys, byteOf s.available, byteOf s.map.exposed] ++ counted s.map.base
  ++ (byteOf s.map.grown.length :: s.map.grown.flatMap GrownEntry.bytes)
  ++ counted (s.map.freeSpares s.nPhys) ++ counted (s.map.lost s.nPhys)

/-- QUERY_MAP. -/
def execQueryMap (seq : Byte) (body : List Byte) (s : State) : Answer :=
  s.request seq 0x05#8 body parseEmpty fun s _ => s.ok seq 0x05#8 s.mapFields

end Sys2Proof.Machine
end

