-- ==== Sys2Proof/Machine/HostMoves.lean ====
section
/-! DEFINITION. References and their resolution, and the requests that make or steer entries: MOVE, SCAN,
STOW, CONFIRM, DIVERT, RETURN, CANCEL, ABORT_ALL (R2 to R6, R42 to R45, R56 to R58, R92 to R95, R128). -/

namespace Sys2Proof.Machine

/-! ### Resolving references (R2 to R6) -/

/-- The request positions of a reference (R2). -/
inductive RefPos where
  | moveSource
  | moveDest
  | stowDest
  | divertDest
  deriving DecidableEq, Repr

/-- A PHYSICAL reference is allowed in the position (R2). -/
def State.physicalAllowed (s : State) : RefPos → Bool
  | .moveSource => true
  | .moveDest => s.ctl.mode == .maintenance
  | .stowDest => s.ctl.ret == .maintenance
  | .divertDest => s.ctl.mode == .maintenance

/-- A LOGICAL reference (R4). -/
def State.resolveLogical (s : State) (n : Nat) : Except Status Loc :=
  if n < s.map.exposed then
    match s.map.physOf s.nPhys n with
    | some p => .ok (.slot p)
    | none => .error .logicalLost
  else .error .noSuchLocation

/-- A BAY reference (R5). -/
def State.resolveBay (s : State) (n : Nat) : Except Status Loc :=
  if n < s.nBays ∧ (s.bay n).state ≠ .absent then .ok (.bay n) else .error .driveAbsent

/-- The one holder of a label, as a source (R6). -/
def State.labelSource (s : State) : Loc → Except Status Loc
  | .gripper => .error .referenceNotAllowed
  | .slot p => if s.map.retired p then .error .referenceNotAllowed else .ok (.slot p)
  | x => .ok x

/-- A LABEL reference (R6). -/
def State.resolveLabel (s : State) (l : Label) : Except Status Loc :=
  match s.inv.holdersOf l with
  | [] => .error .labelNotFound
  | xs =>
    match xs.find? fun x => !(s.inv.place x).dup with
    | none => .error .labelAmbiguous
    | some x => s.labelSource x

/-- The location a reference resolves to, or the refusal of the first check that fails (R2 to R6). -/
def State.resolve (s : State) (pos : RefPos) : Ref → Except Status Loc
  | .logical n => s.resolveLogical n
  | .physical n =>
    if !s.physicalAllowed pos then .error .referenceNotAllowed
    else if n < s.nPhys then .ok (.slot n)
    else .error .noSuchLocation
  | .bay n => s.resolveBay n
  | .port n => if n < Config.portCells then .ok (.cell n) else .error .noSuchLocation
  | .label l => if pos = .moveSource then s.resolveLabel l else .error .referenceNotAllowed
  | .gripper _ => .error .referenceNotAllowed

/-- The checks of a resolved destination: retired, then suspect (R3, R21). -/
def State.destRefusal (s : State) : Loc → Option Status
  | .slot p =>
    if s.map.retired p then some .destinationRetired
    else if s.map.faultCount p = s.params.threshold then some .slotSuspect
    else none
  | _ => none

/-! ### Acceptance (R41 to R45) -/

/-- The tag and capacity checks of acceptance (R42 steps 3 and 4). -/
def State.queueRefusal (s : State) (t : Tag) : Option Status :=
  if (s.entry? t).isSome then some .tagInUse
  else if Config.queueCapacity ≤ s.queue.entries.length then some .queueFull
  else none

/-- An entry as it is accepted, but for its number and state (R39). -/
def Entry.fresh (t : Tag) (k : ReqKind) : Entry where
  tag := t
  kind := k
  accNumber := 0
  source := none
  dest := none
  expected := none
  verify := false
  skipLabel := false
  scan := none
  state := .queued
  labelRead := none
  result := none
  counts := none
  noticeQueued := false
  held := false
  placed := none

/-- The state of an entry at its acceptance (R43 step 4). -/
def State.acceptState (s : State) (e : Entry) : EntryState :=
  if e.isPort && s.port.state != .secured then .waitingPort else .queued

/-- The entry joins the queue and its claims are made (R41, R43 steps 1 to 4). -/
def State.join (s : State) (e : Entry) : State :=
  let n := s.queue.accepted + 1
  { s with
    queue :=
      { s.queue with
        entries := s.queue.entries ++ [{ e with accNumber := n, state := s.acceptState e }],
        accepted := n },
    inv := s.inv.claim e.names e.tag }

/-- Acceptance, with the reply ACCEPTED (R43). -/
def State.accept (s : State) (seq : Byte) (e : Entry) : State :=
  let s1 := s.join e
  s1.reply seq e.kind.code .accepted (be32 s1.queue.accepted)

/-- What an attempt to accept answers: the refusal, or the entry. -/
abbrev Attempt := Except Status Entry

/-- A failing check as a refusal. -/
def check (o : Option Status) : Except Status Unit :=
  match o with
  | some st => .error st
  | none => .ok ()

/-- The checks of a MOVE after its format (R42). -/
def State.tryMove (s : State) (b : MoveBody) : Attempt := do
  check (if s.ctl.mode = .faulted then some .modeRefused else none)
  check (s.queueRefusal b.tag)
  let x ← s.resolve .moveSource b.source
  let d ← s.resolve .moveDest b.dest
  check (if x = d then some .sameLocation else none)
  check (s.destRefusal d)
  return { Entry.fresh b.tag .move with
    source := some x, dest := some d, expected := b.expected, verify := b.verify,
    skipLabel := b.skipLabel }

/-- Accept the entry, or refuse the request. -/
def State.conclude (s : State) (seq kind : Byte) (a : Attempt) : State :=
  match a with
  | .ok e => s.accept seq e
  | .error st => s.reply seq kind st

/-- MOVE (R42, R43). -/
def execMove (seq : Byte) (body : List Byte) (s : State) : Answer :=
  s.request seq 0x06#8 body parseMove fun s b => s.conclude seq 0x06#8 (s.tryMove b)

/-- The numbers from `first` to `last`. -/
def numbers (first last : Nat) : List Nat := (List.range (last + 1)).drop first

/-- The physical slots that serve the logical slots from `first` to `last`, ascending (R128). -/
def State.served (s : State) (first last : Nat) : List Nat :=
  (List.range s.nPhys).filter fun p =>
    match s.map.logicalOf s.nPhys p with
    | some l => first ≤ l && l ≤ last
    | none => false

/-- The resolved list of a scan range (R128). -/
def State.resolveScan (s : State) (k : RangeKind) (first last : Nat) : Except Status (List Loc) :=
  let upTo (bound : Nat) (st : Status) (xs : List Loc) : Except Status (List Loc) :=
    if last < first then .error .outOfRange else if last < bound then .ok xs else .error st
  match k with
  | .logical => do
    let xs ← upTo s.map.exposed .noSuchLocation ((s.served first last).map .slot)
    if xs.isEmpty then .error .logicalLost else return xs
  | .physical => upTo s.nPhys .noSuchLocation ((numbers first last).map .slot)
  | .bays => upTo s.nBays .driveAbsent ((numbers first last).map .bay)
  | .port => upTo Config.portCells .noSuchLocation ((numbers first last).map .cell)
  | .all =>
    .ok ((List.range s.nPhys).map .slot ++ (List.range s.nBays).map .bay
      ++ (List.range Config.portCells).map .cell)

/-- The checks of a SCAN after its format (R44). -/
def State.tryScan (s : State) (b : ScanBody) : Attempt := do
  check (if s.ctl.mode = .faulted then some .modeRefused else none)
  check (s.queueRefusal b.tag)
  let xs ← s.resolveScan b.kind b.first.toNat b.last.toNat
  return { Entry.fresh b.tag .scan with scan := some ⟨b.kind, b.first, b.last, xs⟩ }

/-- SCAN (R43, R44). -/
def execScan (seq : Byte) (body : List Byte) (s : State) : Answer :=
  s.request seq 0x07#8 body parseScan fun s b => s.conclude seq 0x07#8 (s.tryScan b)

/-- The checks of a STOW after its format (R45). -/
def State.tryStow (s : State) (b : Tag × Ref) : Attempt := do
  check (if s.ctl.mode = .holding then none else some .notHolding)
  check (s.queueRefusal b.1)
  let d ← s.resolve .stowDest b.2
  check (s.destRefusal d)
  return { Entry.fresh b.1 .stow with dest := some d }

/-- STOW (R43, R45). -/
def execStow (seq : Byte) (body : List Byte) (s : State) : Answer :=
  s.request seq 0x08#8 body parseTagRef fun s b => s.conclude seq 0x08#8 (s.tryStow b)

/-! ### The host's answers to a hand-off (R92 to R95) -/

/-- The entry an answer names, AWAITING_CONFIRM, or the refusal (R92). -/
def State.awaiting (s : State) (t : Tag) : Attempt :=
  match s.entry? t with
  | none => .error .noSuchTag
  | some e => if e.state = .awaitingConfirm then .ok e else .error .notAwaiting

/-- The hand-off ends and the entry goes on to its destination (R92, R94). -/
def State.carryOn (s : State) (t : Tag) : State :=
  (s.endHandOff.modEntry t ({ · with state := .running })).beginStage (.travel .dest)

/-- CONFIRM (R92). -/
def execConfirm (seq : Byte) (body : List Byte) (s : State) : Answer :=
  s.request seq 0x09#8 body parseByte fun s t =>
    match s.awaiting t with
    | .error st => s.reply seq 0x09#8 st
    | .ok _ => (s.carryOn t).ok seq 0x09#8

/-- The checks of a DIVERT's new destination (R93). -/
def State.tryDivert (s : State) (b : Tag × Ref) : Except Status (Entry × Loc) := do
  let e ← s.awaiting b.1
  let d ← s.resolve .divertDest b.2
  check (if d.isCell && s.port.state != .secured then some .portState else none)
  check (if some d = e.source then some .sameLocation else none)
  check (s.destRefusal d)
  check (if (s.inv.place d).occ = .empty then none else some .destinationFull)
  check (if (s.inv.place d).claims.isEmpty then none else some .divertClaimed)
  return (e, d)

/-- The claims move with the destination (R94 steps 2 and 3). -/
def State.divert (s : State) (e : Entry) (d : Loc) : State :=
  { s with inv := (s.inv.release e.dest.toList e.tag).claim [d] e.tag }.modEntry e.tag
    ({ · with dest := some d })

/-- DIVERT (R93, R94). -/
def execDivert (seq : Byte) (body : List Byte) (s : State) : Answer :=
  s.request seq 0x0A#8 body parseTagRef fun s b =>
    match s.tryDivert b with
    | .error st => s.reply seq 0x0A#8 st
    | .ok (e, d) => ((s.divert e d).carryOn e.tag).ok seq 0x0A#8

/-- RETURN (R95). -/
def execReturnHome (seq : Byte) (body : List Byte) (s : State) : Answer :=
  s.request seq 0x0B#8 body parseByte fun s t =>
    match s.awaiting t with
    | .error st => s.reply seq 0x0B#8 st
    | .ok e => (s.endHandOff.callReturn e .returned).ok seq 0x0B#8

/-! ### CANCEL and ABORT_ALL (R56 to R58) -/

/-- An entry that CANCEL and ABORT_ALL end (R56, R57). -/
def Entry.cancellable (e : Entry) : Bool :=
  e.state == .queued || e.state == .waitingPort || e.state == .waitingDrive .eject

/-- CANCEL (R56). -/
def execCancel (seq : Byte) (body : List Byte) (s : State) : Answer :=
  s.request seq 0x0C#8 body parseByte fun s t =>
    match s.entry? t with
    | none => s.reply seq 0x0C#8 .noSuchTag
    | some e =>
      if e.cancellable then (s.entryDone t .cancelled).ok seq 0x0C#8
      else s.reply seq 0x0C#8 .notCancellable

/-- The entry holding the picker that a stop ends ABORTED or sends on the return path (R57, R58): all but a
STOW, and but for a MOVE whose PLACE at the destination has completed. -/
def State.stoppable (s : State) : Option Entry :=
  match s.seq.job, s.running? with
  | some j, some e =>
    if e.kind = .stow ∨ (e.kind = .move ∧ e.placed.isSome ∧ j.onReturn = none) then none else some e
  | _, _ => none

/-- ABORT_ALL (R57, R58). -/
def State.abortAll (s : State) (seq : Byte) (stop : Bool) : State :=
  let ts := s.tagsWhere Entry.cancellable
  let s1 := s.endAll ts .cancelled
  let told := if stop then s.stoppable else none
  let s2 :=
    match told with
    | some e => s1.interrupt e .stop
    | none => s1
  s2.ok seq 0x0D#8 [byteOf ts.length, flagByte told.isSome]

/-- ABORT_ALL. -/
def execAbortAll (seq : Byte) (body : List Byte) (s : State) : Answer :=
  s.request seq 0x0D#8 body parseAbort fun s stop => s.abortAll seq stop

end Sys2Proof.Machine
end

