-- ==== Sys2Proof/Machine/HostControl.lean ====
section
/-! DEFINITION. PAUSE, RESUME, PORT_UNLOCK, PORT_LOCK, MAINTENANCE_ENTER, MAINTENANCE_LEAVE, NOTICE_ACK,
RECOVER and RESET as the host sends it (R59, R116, R117, R143, R144, R156, R160, R162, R163). -/

namespace Sys2Proof.Machine

/-! ### The hold flag (R59) -/

/-- PAUSE. -/
def execPause (seq : Byte) (body : List Byte) (s : State) : Answer :=
  s.request seq 0x0E#8 body parseEmpty fun s _ =>
    { s with queue := { s.queue with hold := true } }.ok seq 0x0E#8

/-- RESUME. -/
def execResume (seq : Byte) (body : List Byte) (s : State) : Answer :=
  s.request seq 0x0F#8 body parseEmpty fun s _ =>
    { s with queue := { s.queue with hold := false } }.ok seq 0x0F#8

/-! ### The port (R116, R117) -/

/-- An entry that holds the picker names a port cell (R116). -/
def State.portBusy (s : State) : Bool := s.queue.entries.any fun e => e.holdsPicker && e.isPort

/-- PORT_UNLOCK (R116). -/
def State.unlock (s : State) (seq : Byte) : State :=
  if s.port.state ≠ .secured then s.reply seq 0x10#8 .portState
  else if s.portBusy then s.reply seq 0x10#8 .portBusy
  else (s.setPort { s.port with state := .released, lock := false }).ok seq 0x10#8

/-- PORT_UNLOCK. -/
def execPortUnlock (seq : Byte) (body : List Byte) (s : State) : Answer :=
  s.request seq 0x10#8 body parseEmpty fun s _ => s.unlock seq

/-- PORT_LOCK (R117). -/
def State.lockPort (s : State) (seq : Byte) : State :=
  match s.port.state with
  | .released => (s.setPort { s.port with state := .secured, lock := true }).ok seq 0x11#8
  | .closed => (s.setPort ⟨.auditPending, true, .pending⟩).ok seq 0x11#8
  | .secured => s.ok seq 0x11#8
  | .auditPending => s.ok seq 0x11#8
  | .opened => s.reply seq 0x11#8 .portState

/-- PORT_LOCK. -/
def execPortLock (seq : Byte) (body : List Byte) (s : State) : Answer :=
  s.request seq 0x11#8 body parseEmpty fun s _ => s.lockPort seq

/-! ### MAINTENANCE (R156) -/

/-- A mode change the host asks for, from one mode alone. -/
def State.changeMode (s : State) (seq kind : Byte) (before after : LibMode) : State :=
  if s.ctl.mode = before then (s.setMode after .maintenanceRequest).ok seq kind
  else s.reply seq kind .modeRefused

/-- MAINTENANCE_ENTER. -/
def execMaintenanceEnter (seq : Byte) (body : List Byte) (s : State) : Answer :=
  s.request seq 0x12#8 body parseEmpty fun s _ => s.changeMode seq 0x12#8 .ready .maintenance

/-- MAINTENANCE_LEAVE. -/
def execMaintenanceLeave (seq : Byte) (body : List Byte) (s : State) : Answer :=
  s.request seq 0x13#8 body parseEmpty fun s _ => s.changeMode seq 0x13#8 .maintenance .ready

/-! ### NOTICE_ACK (R143, R144) -/

/-- The tag whose completion a notice reports. -/
def NoticeBody.completes : NoticeBody → Option Tag
  | .completionMove t .. => some t
  | .completionScan t .. => some t
  | _ => none

/-- The first notices leave the queue with their waiting frames, and their entries are freed (R48, R144 step
1, R172). -/
def State.removeNotices (s : State) (gone : List Notice) : State :=
  let tags := gone.filterMap fun n => n.body.completes
  { s with
    notices := { s.notices with queue := s.notices.queue.drop gone.length },
    queue := { s.queue with entries := s.queue.entries.filter fun e => !tags.contains e.tag },
    link :=
      { s.link with
        noticeFrames :=
          s.link.noticeFrames.filter fun n => !gone.any fun g => g.number == n.number } }

/-- The admission list enters the queue from its front, one notice for each free place (R144 step 2). -/
def State.refill : List NoticeBody → State → State
  | [], s => s
  | b :: r, s =>
    if s.notices.hasPlace then
      State.refill r ({ s with notices := { s.notices with admission := r } }.enterNotice b)
    else s

/-- ATTENTION_SUMMARY enters (R144 step 3, R148). -/
def State.enterSummary (s : State) : State :=
  if s.notices.admission.isEmpty && s.notices.hasPlace && !s.notices.summary.isEmpty then
    { s with notices := { s.notices with summary := [] } }.enterNotice (.summary s.notices.summary)
  else s

/-- The repeat timer after an acknowledgement (R142, R144 step 4). -/
def State.restartRepeat (s : State) : State :=
  { s with
    notices :=
      { s.notices with
        repeatTimer := if s.notices.queue.isEmpty then none else some s.params.repeatInterval } }

/-- NOTICE_ACK (R143, R144): the reply stands before the notices that enter. -/
def State.acknowledge (s : State) (seq : Byte) (n : Word16) : State :=
  match s.notices.queue.findIdx? fun m => m.number == n with
  | none => s.reply seq 0x18#8 .ackUnknown
  | some i =>
    let s1 := s.removeNotices (s.notices.queue.take (i + 1))
    let s2 := s1.ok seq 0x18#8 [byteOf (i + 1)]
    (State.refill s2.notices.admission s2).enterSummary.restartRepeat

/-- NOTICE_ACK. -/
def execNoticeAck (seq : Byte) (body : List Byte) (s : State) : Answer :=
  s.request seq 0x18#8 body parseAck fun s n => s.acknowledge seq n

/-! ### RECOVER (R160) -/

/-- RECOVER. -/
def execRecover (seq : Byte) (body : List Byte) (s : State) : Answer :=
  s.request seq 0x19#8 body parseEmpty fun s _ =>
    if s.ctl.mode ≠ .stopped then s.reply seq 0x19#8 .modeRefused
    else if s.ctl.stopLine then s.reply seq 0x19#8 .notReleased
    else (s.ok seq 0x19#8).restart .recover

/-! ### RESET (R162, R163) -/

/-- The notice queue, the admission list and the summary are emptied; the numbering goes on (R151). -/
def State.emptyNotices (s : State) : State :=
  { s with
    notices := ⟨[], [], [], s.notices.next, none⟩, link := { s.link with noticeFrames := [] } }

/-- Every entry is discarded and every claim list emptied; the counter is kept (R62). -/
def State.discardEntries (s : State) : State :=
  { s with
    queue := ⟨[], false, s.queue.accepted⟩,
    inv := s.inv.mapAll fun p => { p with claims := [] } }

/-- Each installed bay's record, derived afresh (R113). -/
def State.deriveBays (s : State) : State :=
  { s with
    bays := s.bays.mapIdx fun n b =>
      { b with
        state := s.derivedBay n, eject := false, loadTimer := none, ejectTimer := none,
        waiting := none, loadResult := none } }

/-- The label a bay keeps at RESET SOFT: its own if its state stays (R15, and R113's list), and for a bay in EJECTING
that is derived LOADED as the free value of log entry 28 has it (R113's last paragraph, or its list). -/
def State.resetLabel (s : State) (n : Nat) : Option Label :=
  if Config.resetKeepsEjectingLabel ∧ (s.bay n).state = .ejecting ∧ s.derivedBay n = .loaded then
    (s.inv.place (.bay n)).label
  else s.derivedLabel n

/-- The bay locations' records, derived afresh (R8, R15, R113). -/
def State.deriveBayPlaces (s : State) (v : Inventory) : Inventory :=
  { v with
    bays := v.bays.mapIdx fun n p => p.set (s.derivedBay n).occ (s.resetLabel n) }

/-- The reset's own update of the inventory and the bays (R15, R113): `x` is the noted stage location. -/
def State.resetUpdate (s : State) (x : Option Loc) : State :=
  s.deriveBays.inventoryUpdate fun v =>
    let w := s.deriveBayPlaces v
    let u := match x with
      | some (.bay _) => w
      | some l => w.put l .unknown none
      | none => w
    u.gripperSensed s.pins.gripper

/-- RESET SOFT after its reply (R162). -/
def State.softReset (s : State) : State :=
  let x := s.stageLocation
  (((s.haltJob.discardEntries).emptyNotices).resetUpdate x).restart .reset

/-- RESET with a level other than FULL: BAD_FORMAT, or RESET SOFT.  A body with the level FULL is not this
row's and changes nothing (log entry 6). -/
def execResetSoft (seq : Byte) (body : List Byte) (x : Sense) (s : State) : Answer :=
  if body = [0x01#8] then .next s
  else s.request seq 0x1A#8 body parseReset fun s _ => ((s.ok seq 0x1A#8).sample x).softReset

/-- RESET FULL when it is taken (R163, R174). -/
def State.fullReset (s : State) (seq : Byte) : State :=
  let s1 := (s.reply seq 0x1A#8 .ok [] true).haltJob
  { s1 with
    ctl := { s1.ctl with mode := .initializing },
    link := { s1.link with resetWait := some ⟨false, false⟩ } }

/-- RESET with a level other than SOFT: BAD_FORMAT, or RESET FULL.  A body with the level SOFT is not this
row's and changes nothing (log entry 6). -/
def execResetFull (seq : Byte) (body : List Byte) (s : State) : Answer :=
  if body = [0x00#8] then .next s
  else s.request seq 0x1A#8 body parseReset fun s _ => s.fullReset seq

end Sys2Proof.Machine
end

