-- ==== Sys2Proof/Machine/HostMap.lean ====
section
/-! DEFINITION. The requests with deferred replies: SET_EXPOSED, RETIRE_SLOT, CONSOLIDATE, SET_PARAMETERS
(R27 to R30, R37, R165). -/

namespace Sys2Proof.Machine

/-- The checks every map request makes first (R27, R28, R30). -/
def State.mapRefusal (s : State) : Option Status :=
  if s.ctl.mode ≠ .maintenance then some .modeRefused
  else if s.queue.entries.any fun e => e.state != .done then some .queueNotEmpty
  else none

/-- The checks of RETIRE_SLOT after its format (R27). -/
def State.retireRefusal (s : State) (p : Nat) : Option Status :=
  s.mapRefusal.or
    (if s.nPhys ≤ p then some .noSuchLocation
      else if s.map.retired p then some .alreadyRetired
      else if Config.grownMax ≤ s.map.grown.length then some .mapFull
      else none)

/-- RETIRE_SLOT (R27). -/
def execRetireSlot (seq : Byte) (body : List Byte) (s : State) : Answer :=
  s.request seq 0x15#8 body parseByte fun s b =>
    match s.retireRefusal b.toNat with
    | some st => s.reply seq 0x15#8 st
    | none => (s.deferReply seq 0x15#8).retire b.toNat .request none

/-- The checks of CONSOLIDATE after its format (R28). -/
def State.consolidateRefusal (s : State) : Option Status :=
  let n := s.map.base.length + s.map.grown.length
  s.mapRefusal.or
    (if Config.baseMax < n ∨ s.nPhys - n < Config.minAvailable then some .listOverflow else none)

/-- MAP_CHANGED with the map's figures (R29, R30). -/
def State.mapChanged (s : State) : State :=
  s.askAttention
    (.mapChanged s.available s.map.exposed s.map.base.length s.map.grown.length)

/-- CONSOLIDATE (R28, R29). -/
def execConsolidate (seq : Byte) (body : List Byte) (s : State) : Answer :=
  s.request seq 0x16#8 body parseEmpty fun s _ =>
    match s.consolidateRefusal with
    | some st => s.reply seq 0x16#8 st
    | none =>
      ({ s with map := s.map.consolidate s.nPhys }.mapChanged.deferReply seq 0x16#8).askCommit

/-- One of the slots that lowering E to `n` takes out of the exposed set is OCCUPIED or UNKNOWN (R30). -/
def State.hidesSlot (s : State) (n : Nat) : Bool :=
  (((s.map.baseOrder s.nPhys).take s.map.exposed).drop n).any fun p =>
    (s.inv.place (.slot p)).occ != .empty

/-- The checks of SET_EXPOSED after its format (R30). -/
def State.exposedRefusal (s : State) (n : Nat) : Option Status :=
  s.mapRefusal.or
    (if !s.map.grown.isEmpty then some .mapNotClean
      else if n < 1 ∨ s.available < n then some .outOfRange
      else if n < s.map.exposed ∧ s.hidesSlot n then some .slotsOccupied
      else none)

/-- SET_EXPOSED (R30). -/
def execSetExposed (seq : Byte) (body : List Byte) (s : State) : Answer :=
  s.request seq 0x14#8 body parseByte fun s b =>
    match s.exposedRefusal b.toNat with
    | some st => s.reply seq 0x14#8 st
    | none =>
      let s1 : State := { s with map := { s.map with exposed := b.toNat } }
      ((if s.map.exposed = b.toNat then s1 else s1.mapChanged).deferReply seq 0x14#8).askCommit

/-- A lowered T lowers the fault counts above it (R22). -/
def SlotMap.capFaults (m : SlotMap) (t : Nat) : SlotMap := { m with faults := m.faults.map (min · t) }

/-- SET_PARAMETERS (R165). -/
def execSetParameters (seq : Byte) (body : List Byte) (s : State) : Answer :=
  s.request seq 0x17#8 body parseParams fun s b =>
    match b.firstBad with
    | some i => s.reply seq 0x17#8 .outOfRange [byteOf i]
    | none =>
      ({ s with
        params := b.params,
        map := s.map.capFaults b.threshold }.deferReply seq 0x17#8).askCommit

end Sys2Proof.Machine
end

