-- ==== Sys2Proof/Machine/MechEvents.lean ====
section
/-! DEFINITION. The nine outcome rows: the answer to each order, taken or discarded (R64 to R66, R69, R71,
R72, R76 to R79, R84, R131, R132, R155). -/

namespace Sys2Proof.Machine

/-- HOME_OUTCOME (R69). -/
def execHomeOutcome (n : Byte) (o : MechOutcome) (x : Sense) (s : State) : Answer :=
  s.event fun s => s.takeOutcome .home n o fun s =>
    if o = .reached then (s.sample x).homeReached else (s.sample x).homeFailed

/-- TRAVEL_OUTCOME (R75, R84). -/
def execTravelOutcome (n : Byte) (o : MechOutcome) (x : Sense) (s : State) : Answer :=
  s.event fun s => s.takeOutcome .travel n o fun s =>
    if o = .reached then (s.sample x).travelReached else (s.sample x).travelFailed

/-- PICK_OUTCOME (R76). -/
def execPickOutcome (n : Byte) (o : MechOutcome) (x : Sense) (s : State) : Answer :=
  s.event fun s => s.takeOutcome .pick n o fun s =>
    match o with
    | .held => (s.sample x).pickHeld
    | .noneFound => (s.sample x).pickNone
    | _ => (s.sample x).pickFault

/-- PLACE_OUTCOME (R78). -/
def execPlaceOutcome (n : Byte) (o : MechOutcome) (s : State) : Answer :=
  s.event fun s => s.takeOutcome .place n o fun s =>
    if o = .placed then s.placePlaced else s.placeFault

/-- RETRACT_OUTCOME (R79). -/
def execRetractOutcome (n : Byte) (o : MechOutcome) (x : Sense) (s : State) : Answer :=
  s.event fun s => s.takeOutcome .retract n o fun s =>
    if o = .done then (s.sample x).retractDone else (s.sample x).retractFault

/-- PROBE_OUTCOME (R131). -/
def execProbeOutcome (n : Byte) (o : MechOutcome) (s : State) : Answer :=
  s.event fun s => s.takeOutcome .probe n o fun s =>
    match o with
    | .empty => s.probeEmpty
    | .occupied => s.probeOccupied
    | _ => s.probeFault

/-- READ_OUTCOME (R77, R132). -/
def execReadOutcome (n : Byte) (o : MechOutcome) (s : State) : Answer :=
  s.event fun s => s.takeOutcome .read n o fun s => s.readTaken (outcomeLabel o)

/-- PARK_OUTCOME (R71). -/
def execParkOutcome (n : Byte) (o : MechOutcome) (s : State) : Answer :=
  s.event fun s => s.takeOutcome .park n o fun s =>
    s.parkEnds (if o = .done then .parked else .unhomed)

/-- UNPARK_OUTCOME (R72). -/
def execUnparkOutcome (n : Byte) (o : MechOutcome) (x : Sense) (s : State) : Answer :=
  s.event fun s => s.takeOutcome .unpark n o fun s =>
    if o = .done then (s.sample x).unparkDone else (s.sample x).unparkFailed

end Sys2Proof.Machine
end

