-- ==== Sys2Proof/Machine/TimerEvents.lean ====
section
/-! DEFINITION. The six timer expiries (R65, R70, R96, R106, R108, R142).  The expiry of a timer that is not
running cannot occur and changes nothing (log entry 6). -/

namespace Sys2Proof.Machine

/-- STAGE_TIMER_EXPIRY (R65, R66). -/
def execStageTimerExpiry (x : Sense) (s : State) : Answer :=
  s.event fun s =>
    match s.mech.outstanding with
    | some o => ({ s with mech := s.mech.clear }.sample x).expired o.kind
    | none => s

/-- Parking starts as an internal job: PARK is sent (R70). -/
def State.beginParking (s : State) : State :=
  { s with
    seq :=
      { s.seq with job := some (Job.fresh .parking none), parkTimer := none } }.beginStage .park

/-- PARK_TIMER_EXPIRY (R70). -/
def execParkTimerExpiry (s : State) : Answer :=
  s.event fun s => if s.seq.parkTimer.isSome && s.seq.free then s.beginParking else s

/-- CONFIRM_TIMER_EXPIRY: a RETURN made by the timer (R96). -/
def execConfirmTimerExpiry (s : State) : Answer :=
  s.event fun s =>
    match s.seq.confirmTimer, s.running? with
    | some _, some e => s.endHandOff.callReturn e .confirmTimeout
    | _, _ => s

/-! ### The drives' timers (R106, R108) -/

/-- A bay stays, its label kept, in a new state (R106, R108, R110). -/
def State.bayKeeps (s : State) (n : Nat) (st : BayState) : State :=
  s.bayUpdate n st (s.inv.place (.bay n)).label

/-- DRIVE_EJECTED, with whether eject was asserted (R110). -/
def State.askEjected (s : State) (n : Nat) (eject : Bool) : State :=
  s.askAttention (.driveEjected n (s.inv.place (.bay n)).holds eject)

/-- The entry under a bay's load wait is settled with a result: it ends, or the result is recorded for it
while it RUNs its RETRACT (R106). -/
def State.settleLoad (s : State) (n : Nat) (t : Tag) (r : Result) : State :=
  match s.entry? t with
  | some e =>
    if e.state = .waitingDrive .load then s.entryDone t r
    else s.modBay n fun b => { b with loadResult := b.loadResult.or (some r) }
  | none => s

/-- A bay leaves LOADING by a drive event or its timer (R106): `eject` is the output before. -/
def State.leaveLoading (s : State) (n : Nat) (st : BayState) (r : Result) : State :=
  let s1 := s.bayKeeps n st
  match (s.bay n).waiting with
  | some (t, _) => s1.settleLoad n t r
  | none => if st = .ejected then s1.askEjected n (s.bay n).eject else s1

/-- LOAD_TIMER_EXPIRY (R106). -/
def execLoadTimerExpiry (bay : Fin 4) (s : State) : Answer :=
  s.event fun s =>
    if (s.bay bay).loadTimer.isSome then s.leaveLoading bay .ejected .driveNoAccept else s

/-- The eject wait ends with the bay LOADED again (R108). -/
def State.ejectFails (s : State) (n : Nat) : State :=
  let s1 := s.bayKeeps n .loaded
  match (s.bay n).waiting with
  | some (t, _) => s1.entryDone t .driveNoEject
  | none => s1

/-- EJECT_TIMER_EXPIRY (R108). -/
def execEjectTimerExpiry (bay : Fin 4) (s : State) : Answer :=
  s.event fun s => if (s.bay bay).ejectTimer.isSome then s.ejectFails bay else s

/-! ### The repeat round (R142) -/

/-- A notice handed over once more. -/
def Notice.again (n : Notice) : Notice := { n with count := min (n.count + 1) 255 }

/-- Every queued notice is handed to the link again, oldest first, and the timer is restarted. -/
def State.repeatRound (s : State) : State :=
  let q := s.notices.queue.map Notice.again
  { s with
    notices :=
      { s.notices with
        queue := q, repeatTimer := if q.isEmpty then none else some s.params.repeatInterval },
    link := q.foldl Link.hand s.link }

/-- REPEAT_TIMER_EXPIRY (R142). -/
def execRepeatTimerExpiry (s : State) : Answer :=
  s.event fun s => if s.notices.repeatTimer.isSome then s.repeatRound else s

end Sys2Proof.Machine
end

