-- ==== Sys2Proof/Machine/LineEvents.lean ====
section
/-! DEFINITION. The line events: the drives, the door and the emergency stop (R102 to R104, R106, R108,
R110, R118 to R121, R158, R160). -/

namespace Sys2Proof.Machine

/-- An installed bay; the lines of the others are not followed (R101). -/
def State.installed (s : State) (n : Fin 4) : Bool := n.val < s.nBays

/-! ### PRESENT (R102 to R104) -/

/-- The wait that outlives an insertion: that of an entry which has a recorded load result to take (R102). -/
def Bay.inserted (b : Bay) : Bay := if b.loadResult.isSome then b else { b with waiting := none }

/-- A drive is inserted into an ABSENT bay (R102). -/
def State.insertDrive (s : State) (n : Nat) : State :=
  let st := s.derivedBay n
  ((s.bayUpdate n st none).modBay n Bay.inserted).askAttention (.driveInserted n st)

/-- PRESENT_RISING (R102). -/
def execPresentRising (bay : Fin 4) (x : DriveLines) (s : State) : Answer :=
  s.event fun s =>
    if s.installed bay then
      let s1 := s.lines bay fun _ => ⟨true, x⟩
      if (s.bay bay).state = .absent then s1.insertDrive bay else s1
    else s

/-- The RUNNING MOVE or STOW, or the entry AWAITING_CONFIRM, that names a location is given an
interruption. -/
def State.disturb (s : State) (p : Loc → Bool) (i : Interruption) : State :=
  match s.running? with
  | some e => if e.kind ≠ .scan ∧ e.names.any p then s.interrupt e i else s
  | none => s

/-- The waiting tag's entry ends, or has its load result set unless one stands (R104). -/
def State.settleRemoved (s : State) (n : Nat) (t : Tag) : State :=
  match s.entry? t with
  | some e =>
    match e.state with
    | .waitingDrive _ => s.entryDone t .driveRemoved
    | _ => s.modBay n fun b => { b with loadResult := b.loadResult.or (some .driveRemoved) }
  | none => s

/-- A removal settles the entries that depend on the bay (R104).  The words 'with no load result recorded' in the row
of the RUNNING MOVE or STOW are taken of the withdrawn bay's own record: a MOVE in the RETRACT after its PLACE into
another bay, with a result recorded there, is given the interruption, which R83 drops (log entry 31, DESIGN CHOICE). -/
def State.settleRemoval (s : State) (n : Nat) : State :=
  match (s.bay n).waiting with
  | some (t, _) => s.settleRemoved n t
  | none => s.disturb (· == .bay n) .driveRemoved

/-- A drive is withdrawn (R103, R104). -/
def State.removeDrive (s : State) (n : Nat) : State :=
  let b := s.bay n
  let l := (s.inv.place (.bay n)).holds
  ((s.bayUpdate n .absent none).askAttention
    (.driveRemoved n b.state l (b.waiting.map (·.1)))).settleRemoval n

/-- PRESENT_FALLING (R103). -/
def execPresentFalling (bay : Fin 4) (s : State) : Answer :=
  s.event fun s =>
    if s.installed bay then
      let s1 := s.lines bay fun p => { p with present := false }
      if (s.bay bay).state = .absent then s1 else s1.removeDrive bay
    else s

/-! ### ACCEPTED, EJECT_READY and CARTRIDGE (R106, R108, R110) -/

/-- The drive has taken the cartridge (R106, R110). -/
def State.driveAccepts (s : State) (n : Nat) : State :=
  match (s.bay n).state with
  | .empty => s.bayUpdate n .loaded none
  | .loading => s.leaveLoading n .loaded .ok
  | .ejected => s.bayKeeps n .loaded
  | _ => s

/-- ACCEPTED_RISING (R106, R110). -/
def execAcceptedRising (bay : Fin 4) (s : State) : Answer :=
  s.event fun s =>
    if s.installed bay then
      (s.lines bay fun p => { p with lines := { p.lines with accepted := true } }).driveAccepts bay
    else s

/-- An entry leaves the eject wait (R46). -/
def State.leaveEjectWait (s : State) (t : Tag) : State :=
  s.modEntry t fun e =>
    { e with state := if e.isPort && s.port.state != .secured then .waitingPort else .queued }

/-- The cartridge has come out for the eject wait, or for nobody (R108). -/
def State.ejectDone (s : State) (n : Nat) : State :=
  let s1 := s.bayKeeps n .ejected
  match (s.bay n).waiting with
  | some (t, .eject) => (s1.modBay n ({ · with waiting := none })).leaveEjectWait t
  | _ => s1.askEjected n (s.bay n).eject

/-- The drive presents its cartridge at the mouth (R106, R108, R110). -/
def State.driveEjects (s : State) (n : Nat) : State :=
  match (s.bay n).state with
  | .empty => (s.bayUpdate n .ejected none).askEjected n (s.bay n).eject
  | .loading => s.leaveLoading n .ejected .driveRejected
  | .loaded => (s.bayKeeps n .ejected).askEjected n (s.bay n).eject
  | .ejecting => s.ejectDone n
  | _ => s

/-- EJECT_READY_RISING (R108). -/
def execEjectReadyRising (bay : Fin 4) (s : State) : Answer :=
  s.event fun s =>
    if s.installed bay then
      (s.lines bay fun p => { p with lines := { p.lines with ejectReady := true } }).driveEjects bay
    else s

/-- A PICK, or a PROBE or READ of a scan, is in flight at a bay (R110). -/
def State.stageAt (s : State) (n : Nat) : Bool :=
  match s.seq.job with
  | none => false
  | some j =>
    match j.stage with
    | some .pick => s.running?.bind (·.source) == some (.bay n)
    | some .probe => j.audit.map (·.current) == some (.bay n)
    | some .read => j.audit.map (·.current) == some (.bay n)
    | _ => false

/-- CARTRIDGE_FALLING (R110). -/
def execCartridgeFalling (bay : Fin 4) (accepted : Bool) (s : State) : Answer :=
  s.event fun s =>
    if s.installed bay then
      let s1 := s.lines bay fun p =>
        { p with lines := { p.lines with cartridge := false, accepted := accepted } }
      if (s.bay bay).state = .ejected ∧ !accepted ∧ !s.stageAt bay then s1.bayUpdate bay .empty none
      else s1
    else s

/-! ### The door (R118 to R121) -/

/-- Every port cell becomes UNKNOWN, as one update. -/
def State.unknowCells (s : State) : State :=
  s.inventoryUpdate fun v => { v with cells := v.cells.map fun p => p.set .unknown none }

/-- The entry holding the picker names a port cell: its tag (R119). -/
def State.portTags (s : State) : List Tag :=
  match s.running? with
  | some e => if e.isPort then [e.tag] else []
  | none => []

/-- A running port audit is told to end (R125). -/
def State.disturbAudit (s : State) : State :=
  s.modJob fun j =>
    if j.kind = .portAudit then
      { j with interruption := j.interruption.or (some .portDisturbed) }
    else j

/-- The door is forced open (R119, R120, R125). -/
def State.forceDoor (s : State) : State :=
  let s1 := (s.setPort ⟨.opened, false, .noMark⟩).unknowCells
  let s2 := s1.askAttention (.doorForced s.port.state (s.port.mark == .running) s.portTags)
  s2.disturbAudit.disturb Loc.isCell .portDisturbed

/-- The door opens on a port that is not locked (R118). -/
def State.openDoor (s : State) : State :=
  let s1 := (s.setPort { s.port with state := .opened }).unknowCells
  (s1.askAttention (.doorOpened s.port.state)).disturb Loc.isCell .portDisturbed

/-- The door opens (R118, R119). -/
def State.doorOpens (s : State) : State :=
  match s.port.state with
  | .released => s.openDoor
  | .closed => s.openDoor
  | .secured => s.forceDoor
  | .auditPending => s.forceDoor
  | .opened => s

/-- DOOR_OPENING (R118). -/
def execDoorOpening (s : State) : Answer :=
  s.event fun s => { s with pins := { s.pins with doorOpen := true } }.doorOpens

/-- The door closes (R121). -/
def State.doorCloses (s : State) : State :=
  if s.port.state ≠ .opened then s
  else if s.params.autoRelock then s.setPort ⟨.auditPending, true, .pending⟩
  else (s.setPort { s.port with state := .closed }).askAttention .doorClosed

/-- DOOR_CLOSING (R121). -/
def execDoorClosing (s : State) : Answer :=
  s.event fun s => { s with pins := { s.pins with doorOpen := false } }.doorCloses

/-! ### The emergency stop (R158, R160) -/

/-- The stop is taken (R158 steps 1 to 4). -/
def State.stop (s : State) : State :=
  let x := s.stageLocation
  let c := s.countsNow
  let e := s.running?
  let s1 := ((s.setMode .stopped .stopLine).haltJob).unsettle x
  match e with
  | some e => s1.endHandOff.entryDone e.tag .stopped c
  | none => s1

/-- The assertion is only recorded: in STOPPED, in FAULTED, and while RESET FULL waits for its reload
(R158). -/
def State.stopRecorded (s : State) : Bool :=
  s.ctl.mode == .stopped || s.ctl.mode == .faulted || s.awaitsReload

/-- EMERGENCY_STOP_ASSERTED (R158). -/
def execEmergencyStopAsserted (x : Sense) (s : State) : Answer :=
  s.event fun s =>
    let s1 : State := { s.sample x with ctl := { s.ctl with stopLine := true } }
    if s.stopRecorded then s1 else s1.stop

/-- EMERGENCY_STOP_RELEASED (R160). -/
def execEmergencyStopReleased (s : State) : Answer :=
  s.event fun s => { s with ctl := { s.ctl with stopLine := false } }

end Sys2Proof.Machine
end

