-- ==== Sys2Proof/Machine/Dispatch.lean ====
section
/-! DEFINITION. What each command does to everything but the queue: one direct call of its meaning. -/

namespace Sys2Proof.Machine

def exec (i : Instr) (s : State) : Host.Outcome State Fault Refusal :=
  match i with
  | .powerOn straps pins stop => Sys2Proof.Machine.execPowerOn straps pins stop s
  | .describe seq body => Sys2Proof.Machine.execDescribe seq body s
  | .queryStatus seq body => Sys2Proof.Machine.execQueryStatus seq body s
  | .queryLocations seq body => Sys2Proof.Machine.execQueryLocations seq body s
  | .queryRequest seq body => Sys2Proof.Machine.execQueryRequest seq body s
  | .queryMap seq body => Sys2Proof.Machine.execQueryMap seq body s
  | .move seq body => Sys2Proof.Machine.execMove seq body s
  | .scan seq body => Sys2Proof.Machine.execScan seq body s
  | .stow seq body => Sys2Proof.Machine.execStow seq body s
  | .confirm seq body => Sys2Proof.Machine.execConfirm seq body s
  | .divert seq body => Sys2Proof.Machine.execDivert seq body s
  | .returnHome seq body => Sys2Proof.Machine.execReturnHome seq body s
  | .cancel seq body => Sys2Proof.Machine.execCancel seq body s
  | .abortAll seq body => Sys2Proof.Machine.execAbortAll seq body s
  | .pause seq body => Sys2Proof.Machine.execPause seq body s
  | .resume seq body => Sys2Proof.Machine.execResume seq body s
  | .portUnlock seq body => Sys2Proof.Machine.execPortUnlock seq body s
  | .portLock seq body => Sys2Proof.Machine.execPortLock seq body s
  | .maintenanceEnter seq body => Sys2Proof.Machine.execMaintenanceEnter seq body s
  | .maintenanceLeave seq body => Sys2Proof.Machine.execMaintenanceLeave seq body s
  | .setExposed seq body => Sys2Proof.Machine.execSetExposed seq body s
  | .retireSlot seq body => Sys2Proof.Machine.execRetireSlot seq body s
  | .consolidate seq body => Sys2Proof.Machine.execConsolidate seq body s
  | .setParameters seq body => Sys2Proof.Machine.execSetParameters seq body s
  | .noticeAck seq body => Sys2Proof.Machine.execNoticeAck seq body s
  | .recover seq body => Sys2Proof.Machine.execRecover seq body s
  | .resetSoft seq body sense => Sys2Proof.Machine.execResetSoft seq body sense s
  | .resetFull seq body => Sys2Proof.Machine.execResetFull seq body s
  | .resetFullReload sense => Sys2Proof.Machine.execResetFullReload sense s
  | .unknownRequest seq kind body => Sys2Proof.Machine.execUnknownRequest seq kind body s
  | .frameBadCheck bytes => Sys2Proof.Machine.execFrameBadCheck bytes s
  | .frameLengthExceeded length following => Sys2Proof.Machine.execFrameLengthExceeded length s following
  | .interByteGapTimeout byte following => Sys2Proof.Machine.execInterByteGapTimeout byte s following
  | .byteWithoutStopBit => Sys2Proof.Machine.execByteWithoutStopBit s
  | .frameSent => Sys2Proof.Machine.execFrameSent s
  | .homeOutcome number outcome sense => Sys2Proof.Machine.execHomeOutcome number outcome sense s
  | .travelOutcome number outcome sense => Sys2Proof.Machine.execTravelOutcome number outcome sense s
  | .pickOutcome number outcome sense => Sys2Proof.Machine.execPickOutcome number outcome sense s
  | .placeOutcome number outcome => Sys2Proof.Machine.execPlaceOutcome number outcome s
  | .retractOutcome number outcome sense => Sys2Proof.Machine.execRetractOutcome number outcome sense s
  | .probeOutcome number outcome => Sys2Proof.Machine.execProbeOutcome number outcome s
  | .readOutcome number outcome => Sys2Proof.Machine.execReadOutcome number outcome s
  | .parkOutcome number outcome => Sys2Proof.Machine.execParkOutcome number outcome s
  | .unparkOutcome number outcome sense => Sys2Proof.Machine.execUnparkOutcome number outcome sense s
  | .stageTimerExpiry sense => Sys2Proof.Machine.execStageTimerExpiry sense s
  | .parkTimerExpiry => Sys2Proof.Machine.execParkTimerExpiry s
  | .confirmTimerExpiry => Sys2Proof.Machine.execConfirmTimerExpiry s
  | .loadTimerExpiry bay => Sys2Proof.Machine.execLoadTimerExpiry bay s
  | .ejectTimerExpiry bay => Sys2Proof.Machine.execEjectTimerExpiry bay s
  | .repeatTimerExpiry => Sys2Proof.Machine.execRepeatTimerExpiry s
  | .presentRising bay lines => Sys2Proof.Machine.execPresentRising bay lines s
  | .presentFalling bay => Sys2Proof.Machine.execPresentFalling bay s
  | .acceptedRising bay => Sys2Proof.Machine.execAcceptedRising bay s
  | .ejectReadyRising bay => Sys2Proof.Machine.execEjectReadyRising bay s
  | .cartridgeFalling bay accepted => Sys2Proof.Machine.execCartridgeFalling bay accepted s
  | .doorOpening => Sys2Proof.Machine.execDoorOpening s
  | .doorClosing => Sys2Proof.Machine.execDoorClosing s
  | .emergencyStopAsserted sense => Sys2Proof.Machine.execEmergencyStopAsserted sense s
  | .emergencyStopReleased => Sys2Proof.Machine.execEmergencyStopReleased s
  | .bankWriteComplete ok => Sys2Proof.Machine.execBankWriteComplete ok s
  | .syncReceived following => Sys2Proof.Machine.execSyncReceived s following
  | .powerLoss => Sys2Proof.Machine.execPowerLoss s

end Sys2Proof.Machine
end

