-- ==== Sys2Proof/Machine/Step.lean ====
section
/-! DEFINITION. One step of the block: the command at the front of the queue is taken; on an empty queue the
block idles (log entry 2). -/

namespace Sys2Proof.Machine

/-- The state with another queue of waiting commands. -/
def State.withPending (s : State) (q : List Instr) : State := { s with pending := q }

/-- One step. -/
def step (s : State) : Host.Outcome State Fault Refusal :=
  match s.pending with
  | [] => .next s
  | c :: r => exec c (s.withPending r)

/-- The state with the command a word spells put at the front of its queue; no word spells one. -/
def State.withFetchWord (s : State) (nbits w : Nat) : State :=
  match decodeTableWord nbits w with
  | some c => s.withPending (c :: s.pending)
  | none => s

end Sys2Proof.Machine
end

