-- ==== Sys2Proof/Safety.lean ====
section
/-! DEFINITION. What statements about the block are stated in: when a request is taken, what the end of an
event may still change, and the invariants. -/

namespace Sys2Proof.Machine

/-! ### When a request is taken (R169, R174) -/

/-- The part is powered and the link accepts a frame with this SEQ: RESET FULL is not waited for, no reply is
pending, and the SEQ is not the last accepted one. -/
abbrev State.takes (s : State) (seq : Byte) : Prop :=
  s.powered = true ∧ s.link.resetWait = none ∧ s.link.replyPending = false ∧ s.link.lastSeq ≠ some seq

/-- The state in which the owning block takes an accepted request (R169). -/
def State.accepted (s : State) (seq : Byte) : State :=
  { s with
    link :=
      { s.link with
        receiver := .hunting, lastSeq := some seq, cache := none, replyPending := true } }

/-- The state after a request that has changed nothing but the link, whose reply is `f` (R170, R172). -/
def State.answered (s : State) (seq : Byte) (f : Frame) : State :=
  let l : Link :=
    { s.link with
      receiver := .hunting, lastSeq := some seq, cache := some f, replyPending := false,
      replies := s.link.replies ++ [⟨f, false⟩] }
  { s with link := l.startNext }

/-- The reply frames `fs` have been handed to the transmit list behind those that waited on it; the transmitter may
have begun the first of the waiting replies (R172). -/
def Handed (before after : Link) (fs : List ReplyFrame) : Prop :=
  after.replies = before.replies ++ fs
    ∨ (before.sending = none
      ∧ ∃ r, before.replies ++ fs = r :: after.replies ∧ after.sending = some (.reply r))

/-- The command answers a state in which nothing outside the link interface has changed: the last accepted SEQ, the
reply cache and the pending-reply mark are those given, and the replies `fs` have been handed over. -/
def LinkOnly (c : Instr) (s : State) (last : Option Byte) (cache : Option Frame) (waiting : Bool)
    (fs : List ReplyFrame) : Prop :=
  ∃ t, exec c s = .next t ∧ t = { s with link := t.link } ∧ t.link.lastSeq = last ∧ t.link.cache = cache
    ∧ t.link.replyPending = waiting ∧ t.link.resetWait = s.link.resetWait ∧ Handed s.link t.link fs

/-! ### Requests and orders -/

/-- The request a command carries: its SEQ, KIND and BODY (R176, R185). -/
def requestOf : Instr → Option (Byte × Byte × List Byte)
  | .describe q b => some (q, 0x01#8, b)
  | .queryStatus q b => some (q, 0x02#8, b)
  | .queryLocations q b => some (q, 0x03#8, b)
  | .queryRequest q b => some (q, 0x04#8, b)
  | .queryMap q b => some (q, 0x05#8, b)
  | .move q b => some (q, 0x06#8, b)
  | .scan q b => some (q, 0x07#8, b)
  | .stow q b => some (q, 0x08#8, b)
  | .confirm q b => some (q, 0x09#8, b)
  | .divert q b => some (q, 0x0A#8, b)
  | .returnHome q b => some (q, 0x0B#8, b)
  | .cancel q b => some (q, 0x0C#8, b)
  | .abortAll q b => some (q, 0x0D#8, b)
  | .pause q b => some (q, 0x0E#8, b)
  | .resume q b => some (q, 0x0F#8, b)
  | .portUnlock q b => some (q, 0x10#8, b)
  | .portLock q b => some (q, 0x11#8, b)
  | .maintenanceEnter q b => some (q, 0x12#8, b)
  | .maintenanceLeave q b => some (q, 0x13#8, b)
  | .setExposed q b => some (q, 0x14#8, b)
  | .retireSlot q b => some (q, 0x15#8, b)
  | .consolidate q b => some (q, 0x16#8, b)
  | .setParameters q b => some (q, 0x17#8, b)
  | .noticeAck q b => some (q, 0x18#8, b)
  | .recover q b => some (q, 0x19#8, b)
  | .resetSoft q b _ => some (q, 0x1A#8, b)
  | .resetFull q b => some (q, 0x1A#8, b)
  | .unknownRequest q k b => some (q, k, b)
  | _ => none

/-- The state after the current job, now `j`, has sent an order with the picker in state `p`: the order
carries the next number and its stage timer runs (R64, R65, R68). -/
def State.ordered (s : State) (j : Job) (p : Picker) (k : OrderKind) (x : Option Loc) : State :=
  { s with
    seq := { s.seq with job := some j, picker := p },
    mech :=
      { outstanding := some ⟨s.mech.lastNumber + 1, k, x⟩, lastNumber := s.mech.lastNumber + 1,
        stageTimer := some (s.stageLength k) } }

/-- The order `n` of kind `k` is outstanding for the job `j`, whose stage is `st`, of a powered part. -/
structure Awaits (s : State) (n : Byte) (k : OrderKind) (j : Job) (st : Stage) : Prop where
  powered : s.powered = true
  outstanding : ∃ x, s.mech.outstanding = some ⟨n, k, x⟩
  job : s.seq.job = some j
  stage : j.stage = some st

/-- The job `j` is that of the live entry `e`. -/
abbrev JobOf (s : State) (j : Job) (e : Entry) : Prop := j.kind = .entry e.tag ∧ s.entry? e.tag = some e

/-- The state once an outcome has been taken: no order is outstanding and its stage timer is cancelled
(R66). -/
def State.taken (s : State) : State := { s with mech := s.mech.clear }

/-- The answer of the mechanism a command carries: the order's kind and number, and the outcome (R64). -/
def outcomeOf : Instr → Option (OrderKind × Byte × MechOutcome)
  | .homeOutcome n o _ => some (.home, n, o)
  | .travelOutcome n o _ => some (.travel, n, o)
  | .pickOutcome n o _ => some (.pick, n, o)
  | .placeOutcome n o => some (.place, n, o)
  | .retractOutcome n o _ => some (.retract, n, o)
  | .probeOutcome n o => some (.probe, n, o)
  | .readOutcome n o => some (.read, n, o)
  | .parkOutcome n o => some (.park, n, o)
  | .unparkOutcome n o _ => some (.unpark, n, o)
  | _ => none

/-! ### The end of an event (R51, R52, R172) -/

/-- What an entry is, whatever becomes of it (R39). -/
structure Identity where
  tag : Tag
  kind : ReqKind
  accNumber : Word32
  source : Option Loc
  dest : Option Loc
  expected : Option Label
  verify : Bool
  skipLabel : Bool
  scan : Option ScanRange
  labelRead : Option Label
  placed : Option (Option Label)
  deriving DecidableEq, Repr

/-- What an entry is. -/
def Entry.identity (e : Entry) : Identity :=
  ⟨e.tag, e.kind, e.accNumber, e.source, e.dest, e.expected, e.verify, e.skipLabel, e.scan, e.labelRead,
    e.placed⟩

/-- The inventory but for the claim lists. -/
def Inventory.contents (v : Inventory) : Inventory := v.mapAll fun p => { p with claims := [] }

/-- What the arbiter's choices may do to a bay: a LOADED bay may be asked to eject (R50, R107), and a wait
and its load result may end with the entry that has them (R109). -/
structure BaySettled (a b : Bay) : Prop where
  state : (b.state = a.state ∧ b.eject = a.eject ∧ b.ejectTimer = a.ejectTimer)
    ∨ (a.state = .loaded ∧ b.state = .ejecting ∧ b.eject = true ∧ b.ejectTimer.isSome = true)
  loadTimer : b.loadTimer = a.loadTimer
  loadResult : b.loadResult = a.loadResult ∨ b.loadResult = none

/-- What the arbiter's choices may do to an entry: nothing to what it is, and to its state and result only
where it is QUEUED. -/
structure EntrySettled (a b : Entry) : Prop where
  identity : b.identity = a.identity
  state : a.state ≠ .queued →
    b.state = a.state ∧ b.result = a.result ∧ b.counts = a.counts ∧ b.held = a.held

/-- No two live entries share a tag. -/
abbrev TagsApart (s : State) : Prop := (s.queue.entries.map (·.tag)).Nodup

/-- `t` is `u` after the arbiter's choices and the transmitter's choice that end an event.  Nothing but
QUEUED entries' states and results, claims, the job, eject assertions, the audit mark, notices that are added
and the frames in course of sending may differ; and with the picker held nothing but the transmitter
moves. -/
structure Settled (u t : State) : Prop where
  powered : t.powered = u.powered
  straps : t.straps = u.straps
  pins : t.pins = u.pins
  map : t.map = u.map
  store : t.store = u.store
  params : t.params = u.params
  ctl : t.ctl = u.ctl
  freeNext : t.freeNext = u.freeNext
  pending : t.pending = u.pending
  portState : t.port.state = u.port.state
  lock : t.port.lock = u.port.lock
  mark : t.port.mark = u.port.mark ∨ (u.port.mark = .pending ∧ t.port.mark = .running)
  hold : t.queue.hold = u.queue.hold
  accepted : t.queue.accepted = u.queue.accepted
  identities : t.queue.entries.map Entry.identity = u.queue.entries.map Entry.identity
  entries : TagsApart u → List.Forall₂ EntrySettled u.queue.entries t.queue.entries
  contents : t.inv.contents = u.inv.contents
  bays : List.Forall₂ BaySettled u.bays t.bays
  noticeQueue : u.notices.queue <+: t.notices.queue
  admission : u.notices.admission <+: t.notices.admission
  summary : t.notices.summary = u.notices.summary
  confirmTimer : t.seq.confirmTimer = u.seq.confirmTimer
  mech : t.mech = u.mech ∨ t.seq.job.isSome = true
  receiver : t.link.receiver = u.link.receiver
  lastSeq : t.link.lastSeq = u.link.lastSeq
  cache : t.link.cache = u.link.cache
  replyPending : t.link.replyPending = u.link.replyPending
  resetWait : t.link.resetWait = u.link.resetWait
  sending : u.link.sending ≠ none → t.link.sending = u.link.sending
  replies : t.link.replies = u.link.replies
    ∨ ∃ r, u.link.sending = none ∧ t.link.sending = some (.reply r) ∧ u.link.replies = r :: t.link.replies
  held : u.seq.free = false → t = { u with link := u.link.startNext }

/-! ### Effects that several statements share -/

/-- What the map store has loaded in `t` from banks that stand as in `st` (R33, R34): the bank it names, with its
generation, its parameters and its map with counts 0, adjusted where that is called for, a commit and MAP_ADJUSTED then
asked for; or, with no valid bank, the defaults, a commit into bank 0 and STORE_DEFAULTED.  A bank that is no target of a
commit stands. -/
def LoadsMap (st : Store) (t : State) : Prop :=
  t.store.newest = st.loadBank ∧ t.store.commitPending = false ∧ t.store.unsaved = false ∧ t.store.wait = none
    ∧ (∀ i, (∀ c, t.store.commit = some c → c.target ≠ i) → t.store.bank i = st.bank i)
    ∧ (∀ i g, st.loadBank = some i → g = (st.bank i).image →
      t.store.newestGen = g.generation ∧ t.params = g.params
      ∧ (SlotMap.adjusted t.nPhys ⟨g.base, g.grown, g.exposed, List.replicate t.nPhys 0⟩ = none →
          t.map = ⟨g.base, g.grown, g.exposed, List.replicate t.nPhys 0⟩ ∧ t.store.commit = none)
      ∧ ∀ m, SlotMap.adjusted t.nPhys ⟨g.base, g.grown, g.exposed, List.replicate t.nPhys 0⟩ = some m →
          t.map = m ∧ (∃ c, t.store.commit = some c ∧ c.image.generation = g.generation + 1)
          ∧ ⟨0, 1, .attention (.mapAdjusted (t.nPhys - m.base.length) m.exposed m.base.length
              m.grown.length)⟩ ∈ t.notices.queue)
    ∧ (st.loadBank = none →
      t.store.newestGen = 0 ∧ t.params = Params.default ∧ t.map = ⟨[], [], t.nPhys - 4, List.replicate t.nPhys 0⟩
      ∧ (∃ c, t.store.commit = some c ∧ c.target = .bank0 ∧ c.image.generation = 1)
      ∧ ⟨0, 1, .attention .storeDefaulted⟩ ∈ t.notices.queue)

/-- The library goes to STOPPED or FAULTED from whatever runs: MODE_CHANGED is asked for, the job and its order
are gone, the picker is UNHOMED, the sequencer's timers are stopped, and a running port audit is pending again
(R67, R85, R125, R158). -/
def State.halted (a : State) (m : LibMode) (c : ModeCause) (t : Option Tag) : State :=
  let b := State.askAttention { a with ctl := { a.ctl with mode := m } }
    (.modeChanged (some a.ctl.mode) m none c t)
  { b with
    seq := ⟨none, .unhomed, none, none⟩, mech := { b.mech with outstanding := none, stageTimer := none },
    port := { b.port with mark := if b.port.mark = .running then .pending else b.port.mark } }

/-- The one update of a stop or fault whose stage location is `x`: the location is UNKNOWN, a bay is derived from
its lines instead, and the gripper is set from its sensor (R8, R16, R114). -/
def State.unsettled (b : State) (x : Option Loc) : State :=
  match x with
  | some (.bay n) =>
    let st := derivedState (driveAt b.pins.drives n)
    b.bayUpdate n st (if st = (b.bay n).state then (b.inv.place (.bay n)).label else none)
      (·.gripperSensed b.pins.gripper)
  | some l => b.inventoryUpdate fun v => (v.put l .unknown none).gripperSensed b.pins.gripper
  | none => b.inventoryUpdate (·.gripperSensed b.pins.gripper)

/-- Entry to FAULTED from the job of the entry `e` in a stage at `x`, in the order of log entry 26 (R16, R85,
R161). -/
def State.endsFaulted (a : State) (e : Entry) (x : Option Loc) (c : Option ScanCounts) : State :=
  ((a.halted .faulted .mechanism (some e.tag)).unsettled x).entryDone e.tag .mechanismFault c

/-- The counts of an audit cut short at its current location (R137). -/
def Audit.cut (v : Audit) : ScanCounts := ⟨v.audited, v.occupied, v.changed, some v.current⟩

/-- The return path is called for with the cause `c`: TRAVEL to the source is sent, or, where the source is no
home, the entry ends with the result `failed` and the library enters HOLDING (R81, R82).  `i` is the interruption
that stays pending. -/
def State.sentHome (a : State) (j : Job) (e : Entry) (c : Cause) (failed : Result) (i : Option Interruption) :
    State :=
  if a.homeTest e = true then
    State.ordered
      { a with
        queue :=
          { a.queue with
            entries := a.queue.entries.map fun x => if x.tag = e.tag then { x with state := .running } else x } }
      { j with onReturn := some c, interruption := i, stage := some (.travel .source) } .busy .travel e.source
  else
    let b := a.entryDone e.tag failed
    State.setMode { b with ctl := { b.ctl with ret := a.ctl.mode.recorded } } .holding .noHome (some e.tag)

/-- The result an interruption gives (R74). -/
def Interruption.gives : Interruption → Result
  | .stop => .aborted
  | .driveRemoved => .driveRemoved
  | .portDisturbed => .portDisturbed

/-- What a boundary of a MOVE off its return path, or of a STOW, does with the interruption `i` before the
cartridge is placed: a MOVE that holds its cartridge takes it home, and every other ends (R83, R86). -/
def State.broken (a : State) (j : Job) (e : Entry) (i : Interruption) : State :=
  if e.kind = .move ∧ e.held = true then a.sentHome j e (.interrupted i) i.gives none
  else a.entryDone e.tag i.gives

/-- What an audit records at a location it has probed or `read`: at an EJECTED bay through the bay monitor, at
any other bay nothing, and at a cell of a port neither SECURED nor in its own audit UNKNOWN (R111, R122, R123, R131
to R133; log entries 10 and 30). -/
def State.recordedAt (v : State) (x : Loc) (o : Occ) (l : Option Label) (read : Bool) : State :=
  match x with
  | .bay n =>
    if (v.bay n).state = .ejected then
      if o = .empty then v.bayUpdate n .empty none else if read then v.bayUpdate n .ejected l else v
    else v
  | .cell p =>
    if v.port.state = .secured ∨ v.port.mark = .running then v.inventoryUpdate (·.put (.cell p) o l)
    else v.inventoryUpdate (·.put (.cell p) .unknown none)
  | y => v.inventoryUpdate (·.put y o l)

/-- A location of a SCAN that is audited by orders when it becomes current (R130, R133, R135). -/
def State.callsForOrders (v : State) : Loc → Bool
  | .slot _ => true
  | .cell _ => v.port.state == .secured
  | .bay n => (v.bay n).state == .ejected
  | .gripper => false

/-- What a SCAN does once a location has been counted in `k` and the locations `rest` are left (R130, R133 to R136,
R138): a stop ends it; otherwise the locations that call for no order are counted in passing, and it ends OK or sends
the TRAVEL to the next that calls for orders. -/
def State.scanGoesOn (v : State) (j : Job) (e : Entry) (k : ScanCounts) (rest : List Loc) : State :=
  if j.interruption.isSome = true ∧ rest ≠ [] then
    v.entryDone e.tag .aborted (some { k with firstNot := rest.head? })
  else
    let passed := rest.takeWhile fun y => !v.callsForOrders y
    let m : ScanCounts :=
      ⟨k.audited + passed.length,
        k.occupied + (passed.filter fun y => y.isBay && (v.inv.place y).occ == .occupied).length, k.changed, none⟩
    match rest.dropWhile fun y => !v.callsForOrders y with
    | [] => v.entryDone e.tag .ok (some m)
    | y :: r =>
      v.ordered
        { j with
          stage := some (.travel .scan),
          audit := some
            { current := y, rest := r, byOrders := true, beforeOcc := (v.inv.place y).occ,
              beforeLabel := (v.inv.place y).holds, audited := m.audited, occupied := m.occupied,
              changed := m.changed } }
        .busy .travel (some y)

/-- The counts once the current location has been passed without an order (R133, R135). -/
def Audit.passed (a : Audit) : ScanCounts :=
  ⟨a.audited + 1, a.occupied + (if a.current.isBay = true ∧ a.beforeOcc = .occupied then 1 else 0), a.changed, none⟩

/-! ### The choice that ends an event (R49 to R54, R70, R73, R107, R123, R130) -/

/-- What a command's own effect has made of `s` calls for a choice: the picker has become free, an entry has been
accepted, has reached DONE or has become QUEUED from a wait, a bay's state, the port state or the mode has changed, or
the hold flag has been cleared (R51, log entry 8). -/
def CallsForChoice (s u : State) : Prop :=
  (s.seq.free = false ∧ u.seq.free = true) ∨ u.queue.accepted ≠ s.queue.accepted
    ∨ (∃ e ∈ u.queue.entries, (e.state = .done ∨ e.state = .queued)
        ∧ (∃ o ∈ s.queue.entries, o.tag = e.tag ∧ o.accNumber = e.accNumber)
        ∧ ∀ o ∈ s.queue.entries, o.tag = e.tag → o.accNumber = e.accNumber → o.state ≠ e.state)
    ∨ u.bays.map (·.state) ≠ s.bays.map (·.state) ∨ u.port.state ≠ s.port.state ∨ u.ctl.mode ≠ s.ctl.mode
    ∨ (s.queue.hold = true ∧ u.queue.hold = false)

/-- A choice asserts eject for the entry at bay `n`: it is a QUEUED MOVE from that bay, the bay is LOADED, and the entry
is eligible but for the picker and the bay (R50). -/
def State.asksEject (u : State) (e : Entry) (n : Nat) : Bool :=
  e.state == .queued && e.kind == .move && e.source == some (.bay n) && (u.bay n).state == .loaded
    && (e.names.all fun x => (u.inv.place x).claims.head? == some e.tag)
    && (u.ctl.mode == .ready || u.ctl.mode == .maintenance) && !u.queue.hold

/-- The eject assertions of a choice: each such bay is EJECTING with eject asserted, its eject timer running and the
entry's tag waiting, and the entry waits for it (R50, R107). -/
def State.ejectsAsked (u : State) : State :=
  { u with
    bays := u.bays.mapIdx fun n b =>
      match u.queue.entries.find? (u.asksEject · n) with
      | some e =>
        { b with
          state := .ejecting, eject := true, ejectTimer := some u.params.ejectLimit, waiting := some (e.tag, .eject) }
      | none => b,
    queue :=
      { u.queue with
        entries := u.queue.entries.map fun e =>
          match e.source with
          | some (.bay n) => if u.asksEject e n then { e with state := .waitingDrive .eject } else e
          | _ => e } }

/-- The job `j` has the picker: HOME is sent where the picker is UNHOMED, UNPARK where it is PARKED, and where it is IDLE
the first proper stage begins, as in `proper` (R69, R72, R73). -/
def State.jobBegun (a : State) (j : Job) (proper : State) : State :=
  match a.seq.picker with
  | .unhomed => a.ordered { j with stage := some (.home .firstProper) } .homing .home none
  | .parked => a.ordered { j with stage := some .unpark } .busy .unpark none
  | _ => proper

/-- The audit of a list of locations as a SCAN begins: the first is current, with its before-values (R130, log entry
18). -/
def State.auditOf (v : State) : List Loc → Option Audit
  | [] => none
  | x :: r =>
    some
      { current := x, rest := r, byOrders := v.callsForOrders x, beforeOcc := (v.inv.place x).occ,
        beforeLabel := (v.inv.place x).holds, audited := 0, occupied := 0, changed := 0 }

/-- The entry `e` is RUNNING and its job begins: TRAVEL to the source of a MOVE, to the destination of a STOW, which holds
its cartridge from its start (log entry 22), or to the first location of a SCAN that calls for orders (R52, R73, R130).
A SCAN's list is never empty. -/
def State.entryBegun (a : State) (e : Entry) : State :=
  let b : State :=
    { a with
      queue :=
        { a.queue with
          entries := a.queue.entries.map fun x =>
            if x.tag = e.tag then { x with state := .running, held := x.held || e.kind == .stow } else x } }
  let j : Job := Job.fresh (.entry e.tag) (e.scan.bind fun g => a.auditOf g.locs)
  let taken : State := { b with seq := { b.seq with job := some j, picker := .busy } }
  b.jobBegun j
    (match e.kind, j.audit with
      | .move, _ => b.ordered { j with stage := some (.travel .source) } .busy .travel e.source
      | .stow, _ => b.ordered { j with stage := some (.travel .dest) } .busy .travel e.dest
      | .scan, some v =>
        if v.byOrders = true then
          b.ordered { j with stage := some (.travel .scan) } .busy .travel (some v.current)
        else taken.scanGoesOn j e v.passed v.rest
      | .scan, none => taken)

/-- The port audit has the picker: its mark is RUNNING and it begins at cell 0 (R123). -/
def State.portAuditBegun (a : State) : State :=
  let b : State := { a with port := { a.port with mark := .running } }
  let j : Job :=
    Job.fresh .portAudit
      (some
        { current := .cell 0, rest := [.cell 1, .cell 2, .cell 3, .cell 4, .cell 5], byOrders := true,
          beforeOcc := (a.inv.place (.cell 0)).occ, beforeLabel := (a.inv.place (.cell 0)).holds, audited := 0,
          occupied := 0, changed := 0 })
  b.jobBegun j (b.ordered { j with stage := some (.travel .scan) } .busy .travel (some (.cell 0)))

/-- `v` is `u` after at most `n` choices, made one after another until the picker is held or nothing is selected: the
ejects are asserted; the port audit goes first, where it is due; otherwise the oldest eligible entry ends at its start
checks or begins, and a choice that selects stops the park timer; a choice that selects nothing starts it (R50 to R54,
R70). -/
def Chosen : Nat → State → State → Prop
  | 0, _, _ => True
  | n + 1, u, v =>
    (u.seq.free = false → v = u)
      ∧ (u.seq.free = true →
        let a := u.ejectsAsked
        let b : State := { a with seq := { a.seq with parkTimer := none } }
        let due : Prop :=
          a.port.state = .auditPending ∧ a.port.mark = .pending ∧ (a.ctl.mode = .ready ∨ a.ctl.mode = .maintenance)
            ∧ a.queue.hold = false
        (due → v = b.portAuditBegun)
        ∧ (¬ due → a.queue.entries.find? a.eligible = none →
          v =
            if a.seq.picker = .idle ∧ a.seq.parkTimer = none ∧ a.params.parkDelay ≠ 0 then
              { a with seq := { a.seq with parkTimer := some a.params.parkDelay } }
            else a)
        ∧ ∀ e, ¬ due → a.queue.entries.find? a.eligible = some e →
          (∀ r, a.startCheck e = some r → Chosen n (b.entryDone e.tag r) v)
          ∧ (a.startCheck e = none → Chosen n (b.entryBegun e) v))

/-- `t` is `u`, the state a command's own effect makes of `s`, after the choices R51 calls for and the transmitter's: no
other choice is made.  Each choice that selects takes an entry out of QUEUED, or the picker, so the entries and one more
are as many as there can be. -/
def ChoiceMade (s u t : State) : Prop :=
  ∃ v : State, t = { v with link := v.link.startNext }
    ∧ (¬ CallsForChoice s u → v = u)
    ∧ (CallsForChoice s u → TagsApart u → Chosen (u.queue.entries.length + 1) u v)

/-- The command completes: it answers a next state, that of its own effect `u` with the end of the event after it:
nothing changes that `Settled` does not let change, and the choices R51 calls for are made, and no other. -/
def Completes (c : Instr) (s u : State) : Prop := ∃ t, exec c s = .next t ∧ Settled u t ∧ ChoiceMade s u t

/-! ### Invariants -/

/-- R115: the lock output is asserted exactly in SECURED and AUDIT_PENDING, and the audit mark is NONE in
every state but AUDIT_PENDING, PENDING or RUNNING there. -/
def PortOk (s : State) : Prop :=
  (s.port.lock = true ↔ s.port.state = .secured ∨ s.port.state = .auditPending)
    ∧ (s.port.mark = .noMark ↔ s.port.state ≠ .auditPending)

/-- R100: eject is asserted and the eject timer runs exactly in EJECTING, and the load timer exactly in
LOADING. -/
def BayOk (b : Bay) : Prop :=
  (b.eject = true ↔ b.state = .ejecting) ∧ (b.ejectTimer.isSome = true ↔ b.state = .ejecting)
    ∧ (b.loadTimer.isSome = true ↔ b.state = .loading)

/-- R8, R100: every bay's record is in order, and its location's occupancy follows its state. -/
def BaysOk (s : State) : Prop :=
  List.Forall₂ (fun (b : Bay) (p : PlaceRec) => BayOk b ∧ p.occ = b.state.occ) s.bays s.inv.bays

/-- R7, R11: a label is present only in an OCCUPIED record, and a record is flagged exactly when another
holds its label. -/
def LabelsOk (s : State) : Prop :=
  ∀ p ∈ s.inv.records,
    (p.label.isSome = true → p.occ = .occupied) ∧ p.dup = s.inv.duplicated p

/-- R139, R140, R142, R145, R147: at most 24 notices, numbered consecutively up to the next number, each
sent 1 to 255 times; nothing waits or is folded while a place is free; and the repeat timer runs exactly
while the queue holds notices. -/
def NoticesOk (s : State) : Prop :=
  s.notices.queue.length ≤ Config.noticeCapacity
    ∧ (∀ (i : Nat) (h : i < s.notices.queue.length),
        (s.notices.queue[i]'h).number
          = s.notices.next - BitVec.ofNat 16 (s.notices.queue.length - i))
    ∧ (∀ n ∈ s.notices.queue, 1 ≤ n.count ∧ n.count ≤ 255)
    ∧ (s.notices.admission = [] ∨ s.notices.queue.length = Config.noticeCapacity)
    ∧ (s.notices.summary = [] ∨ s.notices.queue.length = Config.noticeCapacity)
    ∧ (s.notices.repeatTimer.isSome = true ↔ s.notices.queue ≠ [])

/-- R39, R42 step 4: at most 12 live entries, and no two with one tag. -/
def QueueOk (s : State) : Prop := s.queue.entries.length ≤ Config.queueCapacity ∧ TagsApart s

/-- R35, R37, R170: the newest bank is never the target of a commit in flight, which writes the next
generation; and the pending-reply mark is set exactly while a deferred reply waits: on the commit in flight,
or on the pending one behind it. -/
def StoreOk (s : State) : Prop :=
  (∀ c, s.store.commit = some c →
      s.store.newest ≠ some c.target ∧ c.image.generation = s.store.newestGen + 1)
    ∧ (s.link.replyPending = true ↔ s.store.wait.isSome = true)
    ∧ (s.link.resetWait ≠ none → s.link.replyPending = false)
    ∧ ∀ w, s.store.wait = some w →
        s.link.lastSeq = some w.seq ∧ s.store.commit ≠ none
          ∧ (w.onPending = true → s.store.commitPending = true)

/-- No job, no order, the picker UNHOMED and the park timer stopped. -/
def Still (s : State) : Prop :=
  s.seq.job = none ∧ s.mech.outstanding = none ∧ s.seq.picker = .unhomed ∧ s.seq.parkTimer = none

/-- R65, R67, R87, R161, R163: the stage timer runs exactly while an order is outstanding; in STOPPED, in
FAULTED and while RESET FULL waits for its reload the mechanism is still; and through that wait the mode is
INITIALIZING. -/
def MechanismOk (s : State) : Prop :=
  (s.mech.stageTimer.isSome = true ↔ s.mech.outstanding.isSome = true)
    ∧ (s.ctl.mode = .stopped ∨ s.ctl.mode = .faulted ∨ s.awaitsReload = true → Still s)
    ∧ (s.awaitsReload = true → s.ctl.mode = .initializing)

end Sys2Proof.Machine
end

