-- ==== Sys2Proof/Certificates/Slice0/Obligations.lean ====
section
/-! DEFINITION. The statements for the provers.  `Completes c s u` reads: the command `c` taken in `s`
answers a next state, that of its own effect `u` with the end of the event after it.  Every such statement says which
choice of the arbiter ends its event: what R51 names (`CallsForChoice`) causes the choices of R50 and R52 (`Chosen`) and
nothing else causes one (`ChoiceMade`), so an acceptance, an entry's end or its requeuing, a change of a bay, of the port
or of the mode, and the picker becoming free each make the choice, in the statement of the command concerned.
How an event ends (`Settled`, `ChoiceMade`, `State.answered`, `Link.startNext`) is as log entries 7 and 8 have it; the
statements made with `LinkOnly` say nothing of it. -/

open Sys2Proof Sys2Proof.Machine

/-! ### The block and its queue of commands -/

/-- A step takes the command at the front of the queue; on an empty queue the block idles (log
entry 2, the model's choice). -/
def Obligations.StepTakesTheFrontCommand : Prop :=
  ∀ s : State, (s.pending = [] → step s = .next s)
    ∧ ∀ c r, s.pending = c :: r → step s = exec c (s.withPending r)

/-- Every command answers a next state in every state; without power only POWER_ON does anything (log
entry 12, the model's choice). -/
def Obligations.EveryCommandAnswers : Prop :=
  ∀ (c : Instr) (s : State), ∃ t, exec c s = .next t
    ∧ (s.powered = false → (∀ a b d, c ≠ .powerOn a b d) → t = s)

/-- The reset state is the one a blank part reaches at POWER_ON with the straps and lines of log entry 1, the
model's choice. -/
def Obligations.ResetIsAPowerOn : Prop :=
  exec (.powerOn Straps.chosen Pins.quiet false) State.reset.dark = .next State.reset

/-- POWER_ON from any state: every block's power-on values (R14, R22, R61, R112, R126, R152, R154, R173), and the
homing or the stop of the start, told by MODE_CHANGED (R153); with the counts the straps stand for (R1) and the state a
bay's lines show (R8). -/
def Obligations.PowerOnValues : Prop :=
  (∀ s : State, s.nPhys = 24 + 12 * s.straps.slotGroup.val ∧ s.nBays = s.straps.bayCount.val)
  ∧ PlaceRec.notKnown = ⟨.unknown, none, false, []⟩
  ∧ Bay.noDrive = ⟨.absent, false, none, none, none, none⟩
  ∧ (∀ p : DrivePins,
      derivedState p =
        if p.present = false then .absent
        else if p.lines.accepted = true then .loaded
        else if p.lines.cartridge = true then .ejected
        else .empty)
  ∧ (∀ st : BayState, st.occ = if st = .absent ∨ st = .empty then .empty else .occupied)
  ∧ ∀ (straps : Straps) (pins : Pins) (stop : Bool) (s : State), ∃ t,
    exec (.powerOn straps pins stop) s = .next t
    ∧ t.powered = true ∧ t.straps = straps ∧ t.pins = pins
    ∧ t.queue = ⟨[], false, 0⟩
    ∧ t.inv.slots = List.replicate t.nPhys PlaceRec.notKnown
    ∧ t.inv.cells = List.replicate 6 PlaceRec.notKnown
    ∧ t.inv.gripper = ⟨if pins.gripper then .occupied else .empty, none, false, []⟩
    ∧ t.inv.bays = (List.range straps.bayCount).map
        (fun n => ⟨(derivedState (driveAt pins.drives n)).occ, none, false, []⟩)
    ∧ t.bays = (List.range straps.bayCount).map
        (fun n => { Bay.noDrive with state := derivedState (driveAt pins.drives n) })
    ∧ t.port = (if pins.doorOpen then ⟨.opened, false, .noMark⟩ else ⟨.auditPending, true, .pending⟩)
    ∧ t.map.faults = List.replicate t.nPhys 0
    ∧ t.ctl = ⟨if stop then .stopped else .initializing, .ready, stop⟩
    ∧ t.seq.picker = (if stop then .unhomed else .homing)
    ∧ t.seq.parkTimer = none ∧ t.seq.confirmTimer = none
    ∧ t.mech.outstanding = (if stop then none else some ⟨1, .home, none⟩)
    ∧ t.link.receiver = .hunting ∧ t.link.lastSeq = none ∧ t.link.cache = none
    ∧ t.link.replyPending = false ∧ t.link.resetWait = none
    ∧ t.notices.queue.head?.map (·.number) = some 0
    ∧ (∃ n, ⟨n, 1, .attention (.modeChanged none t.ctl.mode none .start none)⟩ ∈ t.notices.queue)

/-- POWER_LOSS leaves the banks: the target of a commit in flight as the write has left it or with its earlier copy
(which of the two is the free value of log entry 3), every other bank as it stood; and POWER_ON of a dark part loads
the map and the parameters from the bank R33 names, adjusts the map where R34 calls for it, or defaults them (R33, R34,
R38).  The bank is the newer of two that are valid as R32 has it, or the one that is.  The default parameters are
R165's. -/
def Obligations.MapAcrossALossOfPower : Prop :=
  Params.default = ⟨2, 3, 5000, 60, 60, 90, 300, true, 1000⟩
  ∧ (∀ s : State, s.powered = true → ∃ t, exec .powerLoss s = .next t ∧ t.powered = false
      ∧ (∀ i, (∀ c, s.store.commit = some c → c.target ≠ i) → t.store.bank i = s.store.bank i)
      ∧ ∀ c, s.store.commit = some c →
          t.store.bank c.target = s.store.bank c.target ∨ t.store.bank c.target = c.earlier)
  ∧ (∀ (straps : Straps) (pins : Pins) (stop : Bool) (s : State), s.powered = false → ∃ t,
      exec (.powerOn straps pins stop) s = .next t ∧ LoadsMap s.store t)
  ∧ (∀ (N : Nat) (m : SlotMap),
      let base := m.base.filter (· < N)
      let grown := m.grown.filter (·.slot < N)
      let calls := base.length ≠ m.base.length ∨ grown.length ≠ m.grown.length ∨ N - base.length < 12
        ∨ N - base.length < m.exposed
        ∨ ∃ g ∈ grown, (∃ p, g.substitute = some p ∧ N ≤ p) ∨ ∃ l, g.logical = some l ∧ m.exposed ≤ l
      (¬ calls → SlotMap.adjusted N m = none)
      ∧ (calls → N - base.length < 12 → SlotMap.adjusted N m = some ⟨[], [], N - 4, m.faults⟩)
      ∧ (calls → 12 ≤ N - base.length →
          SlotMap.adjusted N m
            = some (grown.foldl (fun k g => k.retire N g.slot)
                ⟨base, [], min m.exposed (N - base.length), m.faults⟩)))
  ∧ ∀ st : Store,
      let valid (b : Bank) : Prop :=
        b.checkMatches = true ∧ b.image.base.Pairwise (· < ·) ∧ b.image.base.length ≤ 24
        ∧ b.image.grown.length ≤ 16 ∧ (b.image.grown.map (·.slot)).Nodup
        ∧ (∀ g ∈ b.image.grown, g.slot ∉ b.image.base) ∧ (b.image.grown.filterMap (·.substitute)).Nodup
        ∧ 1 ≤ b.image.exposed ∧ b.image.params.inRange = true
      let apart := (st.bank1.image.generation - st.bank0.image.generation).toNat
      (valid st.bank0 → valid st.bank1 →
        st.loadBank = if 1 ≤ apart ∧ apart ≤ 2147483647 then some .bank1 else some .bank0)
      ∧ (valid st.bank0 → ¬ valid st.bank1 → st.loadBank = some .bank0)
      ∧ (¬ valid st.bank0 → valid st.bank1 → st.loadBank = some .bank1)
      ∧ (¬ valid st.bank0 → ¬ valid st.bank1 → st.loadBank = none)

/-! ### The Handler Link -/

/-- R169: what becomes of a good frame, by its SEQ and the pending-reply mark. -/
def Obligations.LinkTakesGoodFrames : Prop :=
  ∀ (c : Instr) (q k : Byte) (b : List Byte) (s : State),
    requestOf c = some (q, k, b) → c.wellFormed = true → s.powered = true → s.link.resetWait = none →
    (s.link.lastSeq = some q → s.link.replyPending = false → ∀ f, s.link.cache = some f →
      LinkOnly c s (some q) (some f) false [⟨f, false⟩])
    ∧ (s.link.lastSeq = some q → s.link.replyPending = true →
      LinkOnly c s (some q) s.link.cache true [])
    ∧ (s.link.lastSeq ≠ some q → s.link.replyPending = true →
      LinkOnly c s s.link.lastSeq s.link.cache true [⟨replyFrame q k .linkBusy [], false⟩])
    ∧ (s.link.lastSeq ≠ some q → s.link.replyPending = false → ∃ t,
      exec c s = .next t ∧ t.link.lastSeq = some q
        ∧ ((t.link.replyPending = true ∧ t.link.cache = none)
          ∨ (t.link.replyPending = false ∧ ∃ st fs, t.link.cache = some (replyFrame q k st fs))))

/-- R171: a KIND outside the catalogue is accepted and answered UNKNOWN_REQUEST with the KIND received, whatever its
BODY; the reply is immediate and is cached. -/
def Obligations.UnknownKindAnswered : Prop :=
  ∀ (q k : Byte) (b : List Byte) (s : State),
    isRequestKind k = false → b.length ≤ Config.bodyMax → s.takes q →
    LinkOnly (.unknownRequest q k b) s (some q) (some (replyFrame q k .unknownRequest [])) false
      [⟨replyFrame q k .unknownRequest [], false⟩]

/-- A request whose reply carries a refusal status has changed no state outside the link interface (R170). -/
def Obligations.RefusalChangesOnlyTheLink : Prop :=
  ∀ (c : Instr) (q k : Byte) (b : List Byte) (s t : State) (st : Status) (fs : List Byte),
    requestOf c = some (q, k, b) → c.wellFormed = true → s.takes q → exec c s = .next t →
    t.link.cache = some (replyFrame q k st fs) → st.refusal = true → t = { s with link := t.link }

/-- The receiver takes bytes as R168's table has it: every byte joins the frame being assembled, LENGTH is judged on
its two bytes, and a frame whose check is bad is dropped.  The five events of the receiver change it alone; the
bytes that come after one are its operand (log entry 24).  FRAME_SENT: the frame has gone, and the oldest waiting reply
is begun, or failing that the oldest waiting notice frame (R172).  That the transmitter goes on at the end of an event
is log entry 7; what going on is, and what forming a reply leaves (R170), stand first. -/
def Obligations.ReceiverAndTransmitterEvents : Prop :=
  (∀ (s : State) (q k : Byte) (st : Status) (fs : List Byte) (x : Bool),
      s.reply q k st fs x =
        { s with
          link :=
            { s.link with
              cache := some (replyFrame q k st fs), replyPending := false,
              replies := s.link.replies ++ [⟨replyFrame q k st fs, x⟩] } })
  ∧ (∀ l : Link,
      (l.sending ≠ none → l.startNext = l)
      ∧ (l.sending = none →
        (∀ r rs, l.replies = r :: rs → l.startNext = { l with sending := some (.reply r), replies := rs })
        ∧ (l.replies = [] →
          (∀ n ns, l.noticeFrames = n :: ns →
            l.startNext = { l with sending := some (.notice n), noticeFrames := ns })
          ∧ (l.noticeFrames = [] → l.startNext = l))))
  ∧ (∀ r : Receiver, r.takeAll [] = some r
      ∧ ∀ b bs, r.takeAll (b :: bs) = (r.take b).bind fun r' => r'.takeAll bs)
  ∧ ((∀ b, Receiver.take .hunting b = some (if b = 0xC3#8 then .assembling [b] else .hunting))
    ∧ (∀ bs b, bs.length ≠ 2 → completeFrame ((bs ++ [b]).drop 1) = false →
        Receiver.take (.assembling bs) b = some (.assembling (bs ++ [b])))
    ∧ (∀ a hi lo, nat16 hi lo ≤ Config.bodyMax →
        Receiver.take (.assembling [a, hi]) lo = some (.assembling [a, hi, lo]))
    ∧ (∀ a hi lo, Config.bodyMax < nat16 hi lo →
        Receiver.take (.assembling [a, hi]) lo
          = some (if hi = 0xC3#8 then .assembling [hi, lo] else if lo = 0xC3#8 then .assembling [lo] else .hunting))
    ∧ (∀ bs b, completeFrame ((bs ++ [b]).drop 1) = true → goodCheck ((bs ++ [b]).drop 1) = false →
        Receiver.take (.assembling bs) b = some .hunting))
  ∧ (∀ s : State, s.powered = true →
      let takes (r : Receiver) : State := { s with link := { s.link with receiver := r : Link }.startNext }
      (∀ bs r, s.link.receiver.takeAll (0xC3#8 :: bs) = some r → exec (.syncReceived bs) s = .next (takes r))
      ∧ (∀ bs, completeFrame bs = true → goodCheck bs = false →
          exec (.frameBadCheck bs) s = .next (takes .hunting))
      ∧ (∀ (hi lo : Byte) (bs : List Byte) (r : Receiver), Config.bodyMax < nat16 hi lo →
          Receiver.takeAll .hunting (hi :: lo :: bs) = some r →
          exec (.frameLengthExceeded (hi ++ lo) bs) s = .next (takes r))
      ∧ (∀ held b bs r, s.link.receiver = .assembling held → Receiver.takeAll .hunting (b :: bs) = some r →
          exec (.interByteGapTimeout b bs) s = .next (takes r))
      ∧ exec .byteWithoutStopBit s = .next (takes .hunting))
  ∧ (∀ (s : State) (f : TxFrame), s.powered = true → s.link.sending = some f →
      (∀ r, f = .reply r → r.closesReset = false) →
      exec .frameSent s = .next
        { s with
          link :=
            match s.link.replies, s.link.noticeFrames with
            | r :: rs, _ => { s.link with sending := some (.reply r), replies := rs }
            | [], n :: ns => { s.link with sending := some (.notice n), noticeFrames := ns }
            | [], [] => { s.link with sending := none } })

/-- While RESET FULL is waited for, a good frame is discarded in silence; and when its reply has gone, the link
takes its power-on values, the transmit list apart, if the reload has been taken, or goes on waiting for it (R174). -/
def Obligations.ResetIntervalOfTheLink : Prop :=
  (∀ (c : Instr) (q k : Byte) (b : List Byte) (s : State),
      requestOf c = some (q, k, b) → c.wellFormed = true → s.powered = true → s.link.resetWait ≠ none →
      exec c s = .next { s with link := { s.link with receiver := .hunting : Link }.startNext })
  ∧ (∀ (s : State) (r : ReplyFrame) (w : ResetWait), s.powered = true → s.link.sending = some (.reply r) →
      r.closesReset = true → s.link.resetWait = some w → ∃ t, exec .frameSent s = .next t
        ∧ t = { s with link := t.link }
        ∧ (w.reloaded = true →
            t.link.receiver = .hunting ∧ t.link.lastSeq = none ∧ t.link.cache = none
            ∧ t.link.replyPending = false ∧ t.link.resetWait = none)
        ∧ (w.reloaded = false →
            t.link.receiver = s.link.receiver ∧ t.link.lastSeq = s.link.lastSeq ∧ t.link.cache = s.link.cache
            ∧ t.link.replyPending = s.link.replyPending ∧ t.link.resetWait = some ⟨true, false⟩))

/-- The bytes of a frame with a BODY of at most 240 bytes: SYNC, LENGTH, SEQ, KIND, the BODY and the check value, which
is a complete frame whose check is good (R166, R167, R175, R176); the header of a reply's BODY, and the whole frame of
each notice, a repeat's included, field by field (R141, R177, R178, R184); with the codes of the request kinds of
entries' notices, the attention kinds, the MODE_CHANGED causes and the retirement causes (R185, R186). -/
def Obligations.FramesCheckGood : Prop :=
  let bit (r : Word16) : Word16 := if r.msb = true then (r <<< 1) ^^^ 0x1021#16 else r <<< 1
  let check (bs : List Byte) : Word16 :=
    bs.foldl
      (fun (r : Word16) (b : Byte) => bit (bit (bit (bit (bit (bit (bit (bit (r ^^^ (b.zeroExtend 16 <<< 8))))))))))
      0xFFFF#16
  let two (n : Nat) : List Byte := [byteOf (n / 256), byteOf n]
  let four (n : Nat) : List Byte := two (n / 65536) ++ two n
  (∀ w : Word16, be16 w = two w.toNat) ∧ (∀ w : Word32, be32 w = four w.toNat)
  ∧ (∀ f : Frame, f.body.length ≤ Config.bodyMax →
      let covered := two f.body.length ++ f.seq :: f.kind :: f.body
      let bs := covered ++ two (check covered).toNat
      f.bytes = 0xC3#8 :: bs ∧ completeFrame bs = true ∧ goodCheck bs = true)
  ∧ (∀ bs, completeFrame bs = true ↔
      ∃ hi lo rest, bs = hi :: lo :: rest ∧ 256 * hi.toNat + lo.toNat ≤ 240
        ∧ rest.length = 256 * hi.toNat + lo.toNat + 4)
  ∧ (∀ bs hi lo, goodCheck (bs ++ [hi, lo]) = true ↔ [hi, lo] = two (check bs).toNat)
  ∧ (∀ q k st fs, replyFrame q k st fs = ⟨q, 0x80#8, k :: st.code :: fs⟩)
  ∧ (∀ r : ReplyFrame, (TxFrame.reply r).frame = r.frame) ∧ (∀ n : Notice, (TxFrame.notice n).frame = n.frame)
  ∧ ([.move, .scan, .stow] : List ReqKind).map ReqKind.code = [0x06#8, 0x07#8, 0x08#8]
  ∧ ([.modeChanged, .doorOpened, .doorClosed, .doorForced, .portAudited, .driveInserted, .driveRemoved, .driveEjected,
        .slotRetired, .logicalLost, .mapFull, .mapChanged, .mapAdjusted, .storeFault, .storeDefaulted,
        .duplicateLabel] : List AttnKind).map AttnKind.code = (List.range 16).map byteOf
  ∧ ([.start, .homed, .homingFailed, .maintenanceRequest, .noHome, .stowed, .stopLine, .recover, .mechanism,
        .reset] : List ModeCause).map ModeCause.code = (List.range 10).map byteOf
  ∧ ([.faults, .request] : List RetireCause).map RetireCause.code = [0x00#8, 0x01#8]
  ∧ ∀ n : Notice,
      let number (x : Option Nat) : Byte :=
        match x with
        | some p => byteOf p
        | none => 0xFF#8
      let text (l : Option Label) : List Byte :=
        match l with
        | some l => byteOf l.length :: l
        | none => [0x00#8]
      let tagged (t : Option Tag) : List Byte :=
        match t with
        | some t => [0x01#8, t]
        | none => [0x00#8, 0x00#8]
      let located (x : Loc) : List Byte :=
        match x with
        | .slot p => [0x01#8, byteOf p]
        | .bay p => [0x02#8, byteOf p]
        | .cell p => [0x03#8, byteOf p]
        | .gripper => [0x05#8, 0x00#8]
      let place (v : Option LocView) : List Byte :=
        match v with
        | some v => located v.loc ++ [number v.logical]
        | none => [0xFF#8, 0xFF#8, 0xFF#8]
      let mode (m : Option LibMode) : Byte :=
        match m with
        | some m => m.code
        | none => 0xFF#8
      let flag (b : Bool) : Byte := if b = true then 0x01#8 else 0x00#8
      let framed (kind : Byte) (content : List Byte) : Frame :=
        ⟨0x00#8, kind, two n.number.toNat ++ byteOf n.count :: content⟩
      n.frame =
        match n.body with
        | .completionMove t k a r x d l e =>
          framed 0x90#8
            ([t, k.code] ++ four a.toNat ++ [r.code] ++ place x ++ place d ++ text l ++ text e)
        | .completionScan t a r k f l audited occupied changed x =>
          framed 0x90#8
            ([t, 0x07#8] ++ four a.toNat
              ++ [r.code, k.code, f, l, byteOf audited, byteOf occupied, byteOf changed] ++ place x)
        | .verify t x d l e => framed 0x91#8 ([t] ++ place x ++ place d ++ text l ++ text e)
        | .attention a =>
          framed 0x92#8
            (match a with
              | .modeChanged p m r c t =>
                [0x00#8, mode p, m.code,
                  match r with
                  | some .ready => 0x01#8
                  | some .maintenance => 0x02#8
                  | none => 0xFF#8, c.code] ++ tagged t
              | .doorOpened st => [0x01#8, st.code]
              | .doorClosed => [0x02#8]
              | .doorForced st audit ts => [0x03#8, st.code, flag audit, byteOf ts.length] ++ ts
              | .portAudited cells => 0x04#8 :: cells.flatMap fun c => c.1.code :: text c.2
              | .driveInserted b st => [0x05#8, byteOf b, st.code]
              | .driveRemoved b st l t => [0x06#8, byteOf b, st.code] ++ text l ++ tagged t
              | .driveEjected b l eject => [0x07#8, byteOf b] ++ text l ++ [flag eject]
              | .slotRetired p c t l sub o lab =>
                [0x08#8, byteOf p, c.code] ++ tagged t ++ [number l, number sub, o.code] ++ text lab
              | .logicalLost l p => [0x09#8, byteOf l, byteOf p]
              | .mapFull p => [0x0A#8, byteOf p]
              | .mapChanged a e b g => [0x0B#8, byteOf a, byteOf e, byteOf b, byteOf g]
              | .mapAdjusted a e b g => [0x0C#8, byteOf a, byteOf e, byteOf b, byteOf g]
              | .storeFault b g =>
                [0x0D#8,
                  match b with
                  | .bank0 => 0x00#8
                  | .bank1 => 0x01#8] ++ four g.toNat
              | .storeDefaulted => [0x0E#8]
              | .duplicateLabel l x holders => [0x0F#8, byteOf l.length] ++ l ++ located x ++ [byteOf holders])
        | .summary ks => framed 0x93#8 (byteOf ks.length :: ks.map AttnKind.code)

/-- A request BODY is read exactly when it is laid out as R180 has it, and every field comes back as written.  Every
other is refused at an offset (R177, R179, R181): its LENGTH where it ends too soon, the first surplus byte, or the
first byte of the field at fault that is at fault.  That a label's length byte over 16, or a character out of range, is
named also where the body ends before the label would is log entry 27's (the model's choice, DEDUCED).  The layouts
themselves, byte by byte, stand first. -/
def Obligations.BodiesAreReadAsLaidOut : Prop :=
  (let two (n : Nat) : List Byte := [byteOf (n / 256), byteOf n];
    (∀ l : Label, labelOk l = true ↔
      1 ≤ l.length ∧ l.length ≤ 16 ∧ ∀ c ∈ l, 0x20 ≤ c.toNat ∧ c.toNat ≤ 0x7E)
    ∧ (∀ n, (Ref.logical n).bytes = [0x00#8, byteOf n] ∧ (Ref.physical n).bytes = [0x01#8, byteOf n]
      ∧ (Ref.bay n).bytes = [0x02#8, byteOf n] ∧ (Ref.port n).bytes = [0x03#8, byteOf n]
      ∧ (Ref.gripper n).bytes = [0x05#8, byteOf n]
      ∧ ∀ r ∈ [Ref.logical n, .physical n, .bay n, .port n, .gripper n], r.wellFormed = true ↔ n < 256)
    ∧ (∀ l : Label, (Ref.label l).bytes = [0x04#8, byteOf l.length] ++ l
      ∧ ((Ref.label l).wellFormed = true ↔ labelOk l = true))
    ∧ (∀ b : MoveBody,
      b.bytes =
        [b.tag, byteOf (b.verify.toNat + 2 * b.skipLabel.toNat)] ++ b.source.bytes ++ b.dest.bytes
          ++ (match b.expected with
            | some l => byteOf l.length :: l
            | none => [0x00#8])
      ∧ (b.wellFormed = true ↔ b.source.wellFormed = true ∧ b.dest.wellFormed = true
          ∧ ∀ l, b.expected = some l → labelOk l = true))
    ∧ (∀ b : ScanBody, b.bytes = [b.tag, b.kind.code, b.first, b.last])
    ∧ (∀ t r, tagRefBytes (t, r) = t :: r.bytes)
    ∧ (∀ b : RangeBody,
      b.bytes =
        [match b.kind with
          | .logical => 0x00#8
          | .physical => 0x01#8
          | .bay => 0x02#8
          | .port => 0x03#8
          | .label => 0x04#8
          | .gripper => 0x05#8, byteOf b.first, byteOf b.last]
      ∧ (b.wellFormed = true ↔ b.first < 256 ∧ b.last < 256))
    ∧ (∀ b : ParamBody,
      b.bytes =
        [byteOf b.retries, byteOf b.threshold] ++ two b.stageLimit ++ two b.confirmLimit ++ two b.loadLimit
          ++ two b.ejectLimit ++ two b.parkDelay ++ [byteOf b.autoRelock] ++ two b.repeatInterval
      ∧ (b.wellFormed = true ↔ b.retries < 256 ∧ b.threshold < 256 ∧ b.stageLimit < 65536 ∧ b.confirmLimit < 65536
          ∧ b.loadLimit < 65536 ∧ b.ejectLimit < 65536 ∧ b.parkDelay < 65536 ∧ b.autoRelock < 256
          ∧ b.repeatInterval < 65536))
    ∧ (∀ l : ResetLevel, byteOf l.ctorIdx = match l with
        | .soft => 0x00#8
        | .full => 0x01#8))
  ∧ (∀ body b, parseMove body = .ok b ↔ body = b.bytes ∧ b.wellFormed = true)
  ∧ (∀ body b, parseScan body = .ok b ↔ body = b.bytes)
  ∧ (∀ body b, parseTagRef body = .ok b ↔ body = tagRefBytes b ∧ b.2.wellFormed = true)
  ∧ (∀ body b, parseRange body = .ok b ↔ body = b.bytes ∧ b.wellFormed = true)
  ∧ (∀ body b, parseParams body = .ok b ↔ body = b.bytes ∧ b.wellFormed = true)
  ∧ (∀ body n, parseAck body = .ok n ↔ body = be16 n)
  ∧ (∀ body x, parseAbort body = .ok x ↔ body = [flagByte x])
  ∧ (∀ body l, parseReset body = .ok l ↔ body = [byteOf l.ctorIdx])
  ∧ (∀ body x, parseByte body = .ok x ↔ body = [x])
  ∧ (∀ body, parseEmpty body = .ok () ↔ body = [])
  ∧ (let ends (α : Type) (parse : List Byte → Except Nat α) (whole : List Byte) : Prop :=
      (∀ n, n < whole.length → parse (whole.take n) = .error n)
      ∧ ∀ x r, parse (whole ++ x :: r) = .error whole.length
    (∀ b : MoveBody, b.wellFormed = true → ends _ parseMove b.bytes)
    ∧ (∀ b : ScanBody, ends _ parseScan b.bytes)
    ∧ (∀ b : Tag × Ref, b.2.wellFormed = true → ends _ parseTagRef (tagRefBytes b))
    ∧ (∀ b : RangeBody, b.wellFormed = true → ends _ parseRange b.bytes)
    ∧ (∀ b : ParamBody, b.wellFormed = true → ends _ parseParams b.bytes)
    ∧ (∀ n : Word16, ends _ parseAck (be16 n))
    ∧ (∀ x : Bool, ends _ parseAbort [flagByte x])
    ∧ (∀ l : ResetLevel, ends _ parseReset [byteOf l.ctorIdx])
    ∧ (∀ x : Byte, ends _ parseByte [x])
    ∧ ends _ parseEmpty [])
  ∧ (let printable (c : Byte) : Prop := 0x20 ≤ c.toNat ∧ c.toNat ≤ 0x7E
    let badText (bs : List Byte) (o : Nat) : Prop :=
      (∃ n r, bs = n :: r ∧ 16 < n.toNat ∧ o = 0)
      ∨ ∃ n cs c r, bs = n :: (cs ++ c :: r) ∧ n.toNat ≤ 16 ∧ cs.length < n.toNat ∧ (∀ b ∈ cs, printable b)
        ∧ ¬ printable c ∧ o = cs.length + 1
    let badRef (bs : List Byte) (o : Nat) : Prop :=
      (∃ k r, bs = k :: r ∧ 6 ≤ k.toNat ∧ o = 0)
      ∨ (∃ r, bs = 0x04#8 :: 0x00#8 :: r ∧ o = 1)
      ∨ ∃ r i, bs = 0x04#8 :: r ∧ badText r i ∧ o = i + 1
    (∀ (t f : Byte) (r : List Byte), 4 ≤ f.toNat → parseMove (t :: f :: r) = .error 1)
    ∧ (∀ (t f : Byte) (bs : List Byte) (o : Nat), f.toNat < 4 →
      (badRef bs o → parseMove (t :: f :: bs) = .error (2 + o))
      ∧ ∀ x : Ref, x.wellFormed = true →
        (badRef bs o → parseMove (t :: f :: (x.bytes ++ bs)) = .error (2 + x.bytes.length + o))
        ∧ ∀ d : Ref, d.wellFormed = true → badText bs o →
          parseMove (t :: f :: (x.bytes ++ d.bytes ++ bs)) = .error (2 + x.bytes.length + d.bytes.length + o))
    ∧ (∀ (t k : Byte) (r : List Byte), 5 ≤ k.toNat → parseScan (t :: k :: r) = .error 1)
    ∧ (∀ (t : Byte) (bs : List Byte) (o : Nat), badRef bs o → parseTagRef (t :: bs) = .error (1 + o))
    ∧ (∀ (k : Byte) (r : List Byte), 6 ≤ k.toNat → parseRange (k :: r) = .error 0)
    ∧ ∀ (x : Byte) (r : List Byte), 2 ≤ x.toNat → parseAbort (x :: r) = .error 0 ∧ parseReset (x :: r) = .error 0)

/-! ### The queries -/

/-- DESCRIBE, QUERY_MAP, QUERY_REQUEST and QUERY_STATUS: BAD_FORMAT for a malformed body, otherwise the replies of
R182, and nothing else changes (R31, R60, R164, R181); and the codes that replies carry (R185).  The stage, its mark
and its location stand in QUERY_REQUEST while the entry is RUNNING; that a rehoming HOME of the return path carries no
mark is log entry 29's (the model's choice, DEDUCED). -/
def Obligations.QueriesReport : Prop :=
  (∀ (q : Byte) (s : State) (body : List Byte) (o : Nat), s.takes q → body.length ≤ Config.bodyMax →
      let refuses (c : Instr) (k : Byte) : Prop :=
        exec c s = .next (s.answered q (replyFrame q k .badFormat [byteOf o]))
      (parseEmpty body = .error o →
        refuses (.describe q body) 0x01#8 ∧ refuses (.queryStatus q body) 0x02#8 ∧ refuses (.queryMap q body) 0x05#8)
      ∧ (parseByte body = .error o → refuses (.queryRequest q body) 0x04#8))
  ∧ (∀ (q : Byte) (s : State), s.takes q →
      exec (.describe q []) s = .next
        (s.answered q
          (replyFrame q 0x01#8 .ok
            ([0x4D#8, 0x57#8, 0x03#8, byteOf s.nPhys, byteOf s.nBays, 6, 12, 24, 16, byteOf s.available,
              byteOf s.map.exposed, byteOf (s.map.freeSpares s.nPhys).length,
              byteOf (s.map.lost s.nPhys).length, byteOf s.map.base.length, byteOf s.map.grown.length]))))
  ∧ (∀ (q : Byte) (s : State), s.takes q →
      exec (.queryMap q []) s = .next
        (s.answered q
          (replyFrame q 0x05#8 .ok
            ([byteOf s.nPhys, byteOf s.available, byteOf s.map.exposed]
              ++ (byteOf s.map.base.length :: s.map.base.map byteOf)
              ++ (byteOf s.map.grown.length :: s.map.grown.flatMap fun g =>
                  [byteOf g.slot, optByte g.logical, optByte g.substitute])
              ++ (byteOf (s.map.freeSpares s.nPhys).length :: (s.map.freeSpares s.nPhys).map byteOf)
              ++ (byteOf (s.map.lost s.nPhys).length :: (s.map.lost s.nPhys).map byteOf)))))
  ∧ (∀ (q : Byte) (t : Tag) (s : State), s.takes q →
      (s.entry? t = none →
        exec (.queryRequest q [t]) s = .next (s.answered q (replyFrame q 0x04#8 .noSuchTag [])))
      ∧ ∀ e, s.entry? t = some e →
          let place (x : Option Loc) : List Byte :=
            match x with
            | some (.slot p) =>
              [0x01#8, byteOf p,
                match s.map.logicalOf s.nPhys p with
                | some l => byteOf l
                | none => 0xFF#8]
            | some (.bay n) => [0x02#8, byteOf n, 0xFF#8]
            | some (.cell n) => [0x03#8, byteOf n, 0xFF#8]
            | some .gripper => [0x05#8, 0x00#8, 0xFF#8]
            | none => [0xFF#8, 0xFF#8, 0xFF#8]
          let text (l : Option Label) : List Byte :=
            match l with
            | some l => byteOf l.length :: l
            | none => [0x00#8]
          let stageOf (st : Option Stage) (back : Bool) : List Byte :=
            match st with
            | some (.home _) => [0x00#8, 0x00#8]
            | some .unpark => [0x01#8, 0x00#8]
            | some (.travel .source) => [0x02#8, flagByte back]
            | some .pick => [0x03#8, 0x00#8]
            | some .identify => [0x04#8, 0x00#8]
            | some (.travel .dest) => [0x05#8, 0x00#8]
            | some .place => [0x06#8, flagByte back]
            | some (.retract _) => [0x07#8, flagByte back]
            | some (.travel .scan) => [0x08#8, 0x00#8]
            | some .probe => [0x09#8, 0x00#8]
            | some .read => [0x0A#8, 0x00#8]
            | some .park => [0xFF#8, 0x00#8]
            | none => [0xFF#8, 0x00#8]
          let stage : List Byte :=
            match s.seq.job with
            | some j =>
              if e.state = .running ∧ j.kind = .entry e.tag then
                stageOf j.stage j.onReturn.isSome ++ place (j.audit.map (·.current))
              else [0xFF#8, 0x00#8, 0xFF#8, 0xFF#8, 0xFF#8]
            | none => [0xFF#8, 0x00#8, 0xFF#8, 0xFF#8, 0xFF#8]
          let range : List Byte :=
            match e.scan with
            | some g => [g.kind.code, g.first, g.last, byteOf g.locs.length]
            | none => [0xFF#8, 0x00#8, 0x00#8, 0x00#8]
          let counts : List Byte :=
            match e.state, e.counts with
            | .done, some c => [byteOf c.audited, byteOf c.occupied, byteOf c.changed] ++ place c.firstNot
            | _, _ => [0x00#8, 0x00#8, 0x00#8, 0xFF#8, 0xFF#8, 0xFF#8]
          exec (.queryRequest q [t]) s = .next
            (s.answered q
              (replyFrame q 0x04#8 .ok
                ([t, e.kind.code] ++ be32 e.accNumber
                  ++ [e.state.code,
                    match e.state with
                    | .waitingDrive .eject => 0x00#8
                    | .waitingDrive .load => 0x01#8
                    | _ => 0xFF#8]
                  ++ stage ++ place e.source ++ place e.dest
                  ++ [if e.kind = .move then byteOf (e.verify.toNat + 2 * e.skipLabel.toNat) else 0xFF#8]
                  ++ text e.expected ++ range ++ text e.labelRead
                  ++ [match e.result with
                      | some r => r.code
                      | none => 0xFF#8]
                  ++ counts
                  ++ [flagByte e.noticeQueued,
                    byteOf (s.queue.entries.findIdx fun x => x.tag == t)]))))
  ∧ (∀ (q : Byte) (s : State), s.takes q → ∃ internal flags summary : List Byte,
      exec (.queryStatus q []) s = .next
        (s.answered q
          (replyFrame q 0x02#8 .ok
            ([s.ctl.mode.code, if s.ctl.mode = .holding then s.ctl.ret.lib.code else 0xFF#8] ++ flags
              ++ [s.seq.picker.code] ++ internal ++ [s.port.state.code, s.port.mark.code]
              ++ optTag ((s.queue.entries.find? (·.holdsPicker)).map (·.tag))
              ++ [byteOf s.queue.entries.length, byteOf s.notices.queue.length,
                byteOf s.notices.admission.length]
              ++ summary
              ++ [match s.store.newest with
                  | some .bank0 => 0x00#8
                  | some .bank1 => 0x01#8
                  | none => 0xFF#8]
              ++ be32 s.store.newestGen)))
      ∧ internal =
          [match s.seq.job.map Job.kind with
            | some (.homing _) => 0x01#8
            | some .parking => 0x02#8
            | some .portAudit => 0x03#8
            | _ => 0x00#8]
      ∧ flags =
          [byteOf (s.queue.hold.toNat + 2 * s.ctl.stopLine.toNat + 4 * s.store.unsaved.toNat
            + 8 * s.store.commit.isSome.toNat + 16 * s.store.commitPending.toNat)]
      ∧ ∃ w : Word16, summary = be16 w ∧ ∀ k : AttnKind, w.getLsbD k.ctorIdx = s.notices.summary.contains k)
  ∧ ((∀ r : ReqKind, r.code = match r with
        | .move => 0x06#8
        | .scan => 0x07#8
        | .stow => 0x08#8)
    ∧ (∀ w, ([.queued, .waitingDrive w, .waitingPort, .running, .awaitingConfirm, .done] : List EntryState).map
        EntryState.code = (List.range 6).map byteOf)
    ∧ ([.ok, .sourceEmpty, .destinationFull, .locationUnknown, .destinationRetired, .gripFailed, .placeFailed,
          .placeFailedHeld, .driveNoEject, .driveNoAccept, .driveRejected, .driveRemoved, .cancelled, .aborted,
          .returned, .verifyTimeout, .stopped, .mechanismFault, .portDisturbed] : List Result).map Result.code
        = (List.range 19).map byteOf
    ∧ ([.logical, .physical, .bays, .port, .all] : List RangeKind).map RangeKind.code = (List.range 5).map byteOf
    ∧ ([.initializing, .ready, .maintenance, .holding, .stopped, .faulted] : List LibMode).map LibMode.code
        = (List.range 6).map byteOf
    ∧ ([.unhomed, .homing, .idle, .busy, .parking, .parked] : List Picker).map Picker.code = (List.range 6).map byteOf
    ∧ ([.secured, .released, .opened, .closed, .auditPending] : List PortState).map PortState.code
        = (List.range 5).map byteOf
    ∧ ([.noMark, .pending, .running] : List AuditMark).map AuditMark.code = (List.range 3).map byteOf
    ∧ ([.absent, .empty, .loading, .loaded, .ejecting, .ejected] : List BayState).map BayState.code
        = (List.range 6).map byteOf
    ∧ ([.empty, .occupied, .unknown] : List Occ).map Occ.code = (List.range 3).map byteOf
    ∧ ([.ok, .accepted, .stored, .notStored, .badFormat, .unknownRequest, .linkBusy, .modeRefused, .tagInUse,
          .queueFull, .noSuchTag, .noSuchLocation, .logicalLost, .referenceNotAllowed, .driveAbsent, .labelNotFound,
          .labelAmbiguous, .sameLocation, .destinationRetired, .destinationFull, .slotSuspect, .notAwaiting,
          .divertClaimed, .notCancellable, .notHolding, .portBusy, .portState, .queueNotEmpty, .mapNotClean,
          .slotsOccupied, .outOfRange, .alreadyRetired, .mapFull, .listOverflow, .ackUnknown, .notReleased]
            : List Status).map Status.code
        = (List.range 4).map byteOf ++ (List.range 32).map fun n => byteOf (16 + n))

/-- QUERY_LOCATIONS: a malformed body is refused BAD_FORMAT, and a range by the first check that fails (R12, R181).
Otherwise the reply carries whole records in ascending order from the first index, as many as the 236 bytes hold and at
most 8, with the continuation index (R13, R183), and each record is laid out as R182 has it. -/
def Obligations.QueryLocationsAnswers : Prop :=
  (∀ (q : Byte) (s : State) (body : List Byte) (o : Nat), s.takes q → body.length ≤ Config.bodyMax →
    parseRange body = .error o →
    exec (.queryLocations q body) s = .next (s.answered q (replyFrame q 0x03#8 .badFormat [byteOf o])))
  ∧ (∀ (q : Byte) (s : State) (b : RangeBody), s.takes q → b.wellFormed = true →
    let refusal : Option Status :=
      if b.kind = .label then some .referenceNotAllowed
      else if b.last < b.first then some .outOfRange
      else if b.kind = .logical ∧ s.map.exposed ≤ b.last then some .noSuchLocation
      else if b.kind = .physical ∧ s.nPhys ≤ b.last then some .noSuchLocation
      else if b.kind = .bay ∧ s.nBays ≤ b.last then some .driveAbsent
      else if b.kind = .port ∧ 5 < b.last then some .noSuchLocation
      else if b.kind = .gripper ∧ (b.first ≠ 0 ∨ b.last ≠ 0) then some .noSuchLocation
      else none
    (∀ st, refusal = some st →
      exec (.queryLocations q b.bytes) s = .next (s.answered q (replyFrame q 0x03#8 st [])))
    ∧ (refusal = none → ∃ n : Nat, n ≤ 8 ∧ b.first + n ≤ b.last + 1
      ∧ exec (.queryLocations q b.bytes) s = .next
          (s.answered q
            (replyFrame q 0x03#8 .ok
              ([byteOf n, if b.first + n ≤ b.last then byteOf (b.first + n) else 0xFF#8]
                ++ (List.range n).flatMap fun i => s.record b.kind (b.first + i))))
      ∧ ((List.range n).flatMap fun i => s.record b.kind (b.first + i)).length ≤ 236
      ∧ (n = 8 ∨ b.last < b.first + n
        ∨ 236 < ((List.range (n + 1)).flatMap fun i => s.record b.kind (b.first + i)).length)))
  ∧ (∀ s : State,
      let full (kind index : Byte) (x : Loc) (retired : Bool) (cross count st : Byte) : List Byte :=
        let r := s.inv.place x
        [kind, index, byteOf (r.dup.toNat + 2 * retired.toNat), r.occ.code, cross, count, st]
          ++ labelField r.holds ++ (byteOf r.claims.length :: r.claims)
      (∀ l p, s.map.physOf s.nPhys l = some p →
        s.record .logical l
          = full 0x00#8 (byteOf l) (.slot p) (s.map.retired p) (byteOf p) (byteOf (s.map.faultCount p)) 0xFF#8)
      ∧ (∀ l, s.map.physOf s.nPhys l = none → s.record .logical l = [0x00#8, byteOf l, 0x04#8])
      ∧ (∀ p, s.record .physical p
          = full 0x01#8 (byteOf p) (.slot p) (s.map.retired p)
              (match s.map.logicalOf s.nPhys p with
                | some l => byteOf l
                | none => 0xFF#8)
              (byteOf (s.map.faultCount p)) 0xFF#8)
      ∧ (∀ n, s.record .bay n = full 0x02#8 (byteOf n) (.bay n) false 0xFF#8 0xFF#8 (s.bay n).state.code)
      ∧ (∀ n, s.record .port n = full 0x03#8 (byteOf n) (.cell n) false 0xFF#8 0xFF#8 s.port.state.code)
      ∧ s.record .gripper 0 = full 0x05#8 0x00#8 .gripper false 0xFF#8 0xFF#8 0xFF#8)

/-- How references and scan ranges resolve: the position, then the checks of the kind in order (R2, R4, R5, R6, R128),
and the checks of a resolved destination (R3, R21).  A LABEL's holders are taken where they are as R11 has them, and a
LOGICAL range where the map obeys the laws of R20 (`LabelsOkKept`, `MapLaws`). -/
def Obligations.ReferencesResolve : Prop :=
  ∀ s : State,
    (∀ pos n, s.resolve pos (.logical n) =
      if s.map.exposed ≤ n then .error .noSuchLocation
      else match s.map.physOf s.nPhys n with
        | none => .error .logicalLost
        | some p => .ok (.slot p))
    ∧ (∀ pos n, s.resolve pos (.physical n) =
      if pos = .moveSource ∨ (pos = .moveDest ∧ s.ctl.mode = .maintenance)
          ∨ (pos = .stowDest ∧ s.ctl.ret = .maintenance) ∨ (pos = .divertDest ∧ s.ctl.mode = .maintenance) then
        if s.nPhys ≤ n then .error .noSuchLocation else .ok (.slot n)
      else .error .referenceNotAllowed)
    ∧ (∀ pos n, s.resolve pos (.bay n) =
      if s.nBays ≤ n then .error .driveAbsent
      else if (s.bay n).state = .absent then .error .driveAbsent
      else .ok (.bay n))
    ∧ (∀ pos n, s.resolve pos (.port n) = if 5 < n then .error .noSuchLocation else .ok (.cell n))
    ∧ (∀ pos n, s.resolve pos (.gripper n) = .error .referenceNotAllowed)
    ∧ (∀ l,
      (∀ pos, pos ≠ .moveSource → s.resolve pos (.label l) = .error .referenceNotAllowed)
      ∧ ((∀ x ∈ s.inv.locations, (s.inv.place x).holds ≠ some l) →
        s.resolve .moveSource (.label l) = .error .labelNotFound)
      ∧ ((∃ x ∈ s.inv.locations, (s.inv.place x).holds = some l) →
        (∀ x ∈ s.inv.locations, (s.inv.place x).holds = some l → (s.inv.place x).dup = true) →
        s.resolve .moveSource (.label l) = .error .labelAmbiguous)
      ∧ ∀ x ∈ s.inv.locations, (s.inv.place x).holds = some l → (s.inv.place x).dup = false →
        (∀ y ∈ s.inv.locations, (s.inv.place y).holds = some l → y = x) →
        s.resolve .moveSource (.label l) =
          match x with
          | .gripper => .error .referenceNotAllowed
          | .slot p => if s.map.retired p = true then .error .referenceNotAllowed else .ok x
          | _ => .ok x)
    ∧ (∀ d, s.destRefusal d =
      match d with
      | .slot p =>
        if s.map.retired p = true then some .destinationRetired
        else if s.map.faultCount p = s.params.threshold then some .slotSuspect
        else none
      | _ => none)
    ∧ ((∀ l p, s.map.physOf s.nPhys l = some p → p < s.nPhys) →
      (∀ l l' p, s.map.physOf s.nPhys l = some p → s.map.physOf s.nPhys l' = some p → l = l') →
      ∀ f t, s.resolveScan .logical f t =
        if t < f then .error .outOfRange
        else if s.map.exposed ≤ t then .error .noSuchLocation
        else if (List.range' f (t + 1 - f)).all (fun l => (s.map.physOf s.nPhys l).isNone) then .error .logicalLost
        else .ok (((List.range s.nPhys).filter fun p =>
          (List.range' f (t + 1 - f)).any fun l => s.map.physOf s.nPhys l == some p).map .slot))
    ∧ (∀ f t, s.resolveScan .physical f t =
      if t < f then .error .outOfRange
      else if s.nPhys ≤ t then .error .noSuchLocation
      else .ok ((List.range' f (t + 1 - f)).map .slot))
    ∧ (∀ f t, s.resolveScan .bays f t =
      if t < f then .error .outOfRange
      else if s.nBays ≤ t then .error .driveAbsent
      else .ok ((List.range' f (t + 1 - f)).map .bay))
    ∧ (∀ f t, s.resolveScan .port f t =
      if t < f then .error .outOfRange
      else if 5 < t then .error .noSuchLocation
      else .ok ((List.range' f (t + 1 - f)).map .cell))
    ∧ ∀ f t, s.resolveScan .all f t =
      .ok ((List.range s.nPhys).map .slot ++ (List.range s.nBays).map .bay ++ (List.range 6).map .cell)

/-! ### The requests that make and steer entries -/

/-- R42: the checks of MOVE, in order: the first that fails refuses the request with its status.  And the checks of
SCAN and of STOW in the same way (R44, R45). -/
def Obligations.EntryRequestChecks : Prop :=
  ∀ (q : Byte) (s : State), s.takes q →
    let refuses (c : Instr) (k : Byte) (st : Status) (fs : List Byte) : Prop :=
      LinkOnly c s (some q) (some (replyFrame q k st fs)) false [⟨replyFrame q k st fs, false⟩]
    let suspect (d : Loc) : Option Status :=
      match d with
      | .slot p =>
        if s.map.retired p then some .destinationRetired
        else if s.map.faultCount p = s.params.threshold then some .slotSuspect
        else none
      | _ => none
    (∀ body o, body.length ≤ Config.bodyMax →
      (parseMove body = .error o → refuses (.move q body) 0x06#8 .badFormat [byteOf o])
      ∧ (parseScan body = .error o → refuses (.scan q body) 0x07#8 .badFormat [byteOf o])
      ∧ (parseTagRef body = .error o → refuses (.stow q body) 0x08#8 .badFormat [byteOf o]))
    ∧ (∀ (b : MoveBody) (st : Status), b.wellFormed = true →
      (if s.ctl.mode = .faulted then some Status.modeRefused
        else if (s.entry? b.tag).isSome then some .tagInUse
        else if 12 ≤ s.queue.entries.length then some .queueFull
        else match s.resolve .moveSource b.source, s.resolve .moveDest b.dest with
          | .error x, _ => some x
          | .ok _, .error x => some x
          | .ok x, .ok d => if x = d then some .sameLocation else suspect d) = some st →
      refuses (.move q b.bytes) 0x06#8 st [])
    ∧ (∀ (b : ScanBody) (st : Status),
      (if s.ctl.mode = .faulted then some Status.modeRefused
        else if (s.entry? b.tag).isSome then some .tagInUse
        else if 12 ≤ s.queue.entries.length then some .queueFull
        else match s.resolveScan b.kind b.first.toNat b.last.toNat with
          | .error x => some x
          | .ok _ => none) = some st →
      refuses (.scan q b.bytes) 0x07#8 st [])
    ∧ ∀ (t : Tag) (r : Ref) (st : Status), r.wellFormed = true →
      (if s.ctl.mode ≠ .holding then some Status.notHolding
        else if (s.entry? t).isSome then some .tagInUse
        else if 12 ≤ s.queue.entries.length then some .queueFull
        else match s.resolve .stowDest r with
          | .error x => some x
          | .ok d => suspect d) = some st →
      refuses (.stow q (tagRefBytes (t, r))) 0x08#8 st []

/-- A MOVE, a SCAN or a STOW that passes its checks is accepted in one step (R41, R43, R44, R45); with what claiming
locations does to each record (R9, R43), and what an entry begins as (R39). -/
def Obligations.RequestsAccepted : Prop :=
  (∀ (v : Inventory) (xs : List Loc) (t : Tag) (x : Loc), xs.Nodup →
      (v.claim xs t).locations = v.locations
      ∧ (v.claim xs t).place x =
          if x ∈ xs ∧ x ∈ v.locations then { v.place x with claims := (v.place x).claims ++ [t] } else v.place x)
  ∧ (∀ (t : Tag) (k : ReqKind),
      Entry.fresh t k
        = ⟨t, k, 0, none, none, none, false, false, none, .queued, none, none, none, false, false, none⟩)
  ∧ (∀ (q : Byte) (s : State) (b : MoveBody) (x d : Loc), s.takes q → b.wellFormed = true →
      s.ctl.mode ≠ .faulted → s.entry? b.tag = none → s.queue.entries.length < 12 →
      s.resolve .moveSource b.source = .ok x → s.resolve .moveDest b.dest = .ok d → x ≠ d →
      s.destRefusal d = none →
      Completes (.move q b.bytes) s
        (State.reply
          { s.accepted q with
            queue :=
              { s.queue with
                entries := s.queue.entries ++
                  [{ Entry.fresh b.tag .move with
                    accNumber := s.queue.accepted + 1, source := some x, dest := some d,
                    expected := b.expected, verify := b.verify, skipLabel := b.skipLabel,
                    state :=
                      if (x.isCell || d.isCell) && s.port.state != .secured then .waitingPort
                      else .queued }],
                accepted := s.queue.accepted + 1 },
            inv := s.inv.claim [x, d] b.tag }
          q 0x06#8 .accepted (be32 (s.queue.accepted + 1))))
  ∧ ((∀ (q : Byte) (s : State) (b : ScanBody) (xs : List Loc), s.takes q → s.ctl.mode ≠ .faulted →
      s.entry? b.tag = none → s.queue.entries.length < 12 →
      s.resolveScan b.kind b.first.toNat b.last.toNat = .ok xs →
      Completes (.scan q b.bytes) s
        (State.reply
          { s.accepted q with
            queue :=
              { s.queue with
                entries := s.queue.entries ++
                  [{ Entry.fresh b.tag .scan with
                    accNumber := s.queue.accepted + 1, scan := some ⟨b.kind, b.first, b.last, xs⟩,
                    state :=
                      if xs.any Loc.isCell && s.port.state != .secured then .waitingPort else .queued }],
                accepted := s.queue.accepted + 1 },
            inv := s.inv.claim xs b.tag }
          q 0x07#8 .accepted (be32 (s.queue.accepted + 1))))
    ∧ ∀ (q : Byte) (s : State) (t : Tag) (r : Ref) (d : Loc), s.takes q → r.wellFormed = true →
      s.ctl.mode = .holding → s.entry? t = none → s.queue.entries.length < 12 →
      s.resolve .stowDest r = .ok d → s.destRefusal d = none →
      Completes (.stow q (tagRefBytes (t, r))) s
        (State.reply
          { s.accepted q with
            queue :=
              { s.queue with
                entries := s.queue.entries ++
                  [{ Entry.fresh t .stow with
                    accNumber := s.queue.accepted + 1, dest := some d,
                    state := if d.isCell && s.port.state != .secured then .waitingPort else .queued }],
                accepted := s.queue.accepted + 1 },
            inv := s.inv.claim [d] t }
          q 0x08#8 .accepted (be32 (s.queue.accepted + 1))))

/-- CONFIRM and DIVERT: the first check that fails refuses the answer and leaves everything else as it stands (R92,
R93). Otherwise, of an entry AWAITING_CONFIRM, the hand-off ends and the TRAVEL to the destination, the new one of a
DIVERT, is sent (R92, R94): a DIVERT takes the tag off the claims of the destination it leaves and makes it the one
claim of the new one, and touches no other record (R9, R94). -/
def Obligations.ConfirmAndDivertCarryOn : Prop :=
  (∀ (q : Byte) (s : State), s.takes q →
    let refusal (t : Tag) : Option Status :=
      match s.entry? t with
      | none => some .noSuchTag
      | some e => if e.state = .awaitingConfirm then none else some .notAwaiting
    (∀ body o, body.length ≤ Config.bodyMax →
      (parseByte body = .error o →
        exec (.confirm q body) s = .next (s.answered q (replyFrame q 0x09#8 .badFormat [byteOf o])))
      ∧ (parseTagRef body = .error o →
        exec (.divert q body) s = .next (s.answered q (replyFrame q 0x0A#8 .badFormat [byteOf o]))))
    ∧ (∀ t st, refusal t = some st →
      exec (.confirm q [t]) s = .next (s.answered q (replyFrame q 0x09#8 st []))
      ∧ ∀ r : Ref, r.wellFormed = true →
        exec (.divert q (tagRefBytes (t, r))) s = .next (s.answered q (replyFrame q 0x0A#8 st [])))
    ∧ ∀ t e (r : Ref) st, s.entry? t = some e → e.state = .awaitingConfirm → r.wellFormed = true →
      (match s.resolve .divertDest r with
        | .error x => some x
        | .ok d =>
          if d.isCell = true ∧ s.port.state ≠ .secured then some .portState
          else if some d = e.source then some .sameLocation
          else match s.destRefusal d with
            | some x => some x
            | none =>
              if (s.inv.place d).occ ≠ .empty then some .destinationFull
              else if (s.inv.place d).claims ≠ [] then some .divertClaimed
              else none) = some st →
      exec (.divert q (tagRefBytes (t, r))) s = .next (s.answered q (replyFrame q 0x0A#8 st [])))
  ∧ ∀ (q : Byte) (s : State) (t : Tag) (e : Entry) (j : Job), s.takes q → s.entry? t = some e →
    e.state = .awaitingConfirm → s.seq.job = some j → j.kind = .entry t →
    Completes (.confirm q [t]) s
      (State.reply
        (State.ordered
          { s.accepted q with
            seq := { s.seq with confirmTimer := none },
            notices := { s.notices with admission := s.notices.admission.filter fun b => !b.isVerify },
            queue :=
              { s.queue with
                entries := s.queue.entries.map fun x =>
                  if x.tag = t then { x with state := .running } else x } }
          { j with stage := some (.travel .dest) } .busy .travel e.dest)
        q 0x09#8 .ok [])
    ∧ ∀ (r : Ref) (d : Loc), r.wellFormed = true → s.resolve .divertDest r = .ok d →
      (d.isCell = true → s.port.state = .secured) → some d ≠ e.source → s.destRefusal d = none →
      (s.inv.place d).occ = .empty → (s.inv.place d).claims = [] →
      (let w := (s.inv.release e.dest.toList t).claim [d] t;
        w.locations = s.inv.locations
        ∧ (d ∈ s.inv.locations → w.place d = { s.inv.place d with claims := [t] })
        ∧ ∀ x, x ≠ d →
          w.place x =
            if e.dest = some x then { s.inv.place x with claims := (s.inv.place x).claims.filter (· != t) }
            else s.inv.place x)
      ∧ Completes (.divert q (tagRefBytes (t, r))) s
        (State.reply
          (State.ordered
            { s.accepted q with
              seq := { s.seq with confirmTimer := none },
              notices := { s.notices with admission := s.notices.admission.filter fun b => !b.isVerify },
              inv := (s.inv.release e.dest.toList t).claim [d] t,
              queue :=
                { s.queue with
                  entries := s.queue.entries.map fun x =>
                    if x.tag = t then { x with dest := some d, state := .running } else x } }
            { j with stage := some (.travel .dest) } .busy .travel (some d))
          q 0x0A#8 .ok [])

/-- The home test (R81); what refuses RETURN (R92); and RETURN and the expiry of the confirm timer: the hand-off ends,
and the return path is taken with its cause, or given up where the source is no home (R81, R82, R95, R96). -/
def Obligations.ReturnAndExpiryGoHome : Prop :=
  (∀ (s : State) (e : Entry),
    (∀ p, e.source = some (.slot p) → (s.homeTest e = true ↔ s.map.retired p = false))
    ∧ (∀ p, e.source = some (.cell p) → (s.homeTest e = true ↔ s.port.state = .secured))
    ∧ ∀ n, e.source = some (.bay n) → (s.homeTest e = true ↔ (s.bay n).state = .empty))
  ∧ (∀ (q : Byte) (s : State), s.takes q →
    (∀ body o, body.length ≤ Config.bodyMax → parseByte body = .error o →
      exec (.returnHome q body) s = .next (s.answered q (replyFrame q 0x0B#8 .badFormat [byteOf o])))
    ∧ (∀ t, s.entry? t = none →
      exec (.returnHome q [t]) s = .next (s.answered q (replyFrame q 0x0B#8 .noSuchTag [])))
    ∧ ∀ t e, s.entry? t = some e → e.state ≠ .awaitingConfirm →
      exec (.returnHome q [t]) s = .next (s.answered q (replyFrame q 0x0B#8 .notAwaiting [])))
  ∧ ∀ (s : State) (t : Tag) (e : Entry) (j : Job), s.entry? t = some e → e.state = .awaitingConfirm →
    s.seq.job = some j → j.kind = .entry t →
    let ended (a : State) : State :=
      { a with
        seq := { a.seq with confirmTimer := none },
        notices := { a.notices with admission := a.notices.admission.filter fun b => !b.isVerify } }
    let back (a : State) (c : Cause) : State :=
      State.ordered
        { ended a with
          queue :=
            { a.queue with
              entries := a.queue.entries.map fun x =>
                if x.tag = t then { x with state := .running } else x } }
        { j with onReturn := some c, stage := some (.travel .source) } .busy .travel e.source
    let given (a : State) (r : Result) : State :=
      let b := (ended a).entryDone t r
      State.setMode { b with ctl := { b.ctl with ret := a.ctl.mode.recorded } } .holding .noHome (some t)
    (∀ q, s.takes q →
      (s.homeTest e = true →
        Completes (.returnHome q [t]) s ((back (s.accepted q) .returned).reply q 0x0B#8 .ok []))
      ∧ (s.homeTest e = false →
        Completes (.returnHome q [t]) s ((given (s.accepted q) .returned).reply q 0x0B#8 .ok [])))
    ∧ (s.powered = true → s.seq.confirmTimer.isSome = true →
      (s.homeTest e = true → Completes .confirmTimerExpiry s (back s .confirmTimeout))
      ∧ (s.homeTest e = false → Completes .confirmTimerExpiry s (given s .verifyTimeout)))

/-- CANCEL by the state of the entry its tag names (R56). -/
def Obligations.CancelByState : Prop :=
  ∀ (q : Byte) (s : State) (t : Tag), s.takes q →
    (∀ body o, body.length ≤ Config.bodyMax → parseByte body = .error o →
      exec (.cancel q body) s = .next (s.answered q (replyFrame q 0x0C#8 .badFormat [byteOf o])))
    ∧ (s.entry? t = none →
      exec (.cancel q [t]) s = .next (s.answered q (replyFrame q 0x0C#8 .noSuchTag [])))
    ∧ (∀ e, s.entry? t = some e →
        e.state = .queued ∨ e.state = .waitingPort ∨ e.state = .waitingDrive .eject →
        Completes (.cancel q [t]) s (((s.accepted q).entryDone t .cancelled).reply q 0x0C#8 .ok []))
    ∧ ∀ e, s.entry? t = some e →
        e.state = .waitingDrive .load ∨ e.state = .running ∨ e.state = .awaitingConfirm ∨ e.state = .done →
        exec (.cancel q [t]) s = .next (s.answered q (replyFrame q 0x0C#8 .notCancellable []))

/-- ABORT_ALL: the entries it cancels, and what it tells the job that holds the picker (R57, R58): an entry
AWAITING_CONFIRM is sent home at once, its hand-off ended (R90, R91, R97, R146).  How a stop is recorded, and the mark
in the reply, are log entry 21's (DEDUCED).  What ending several entries, ending a hand-off and telling a job are
stands first. -/
def Obligations.AbortAllCancels : Prop :=
  (∀ s : State,
      (∀ ts r, s.endAll ts r = ts.foldl (fun a t => a.entryDone t r) s)
      ∧ s.endHandOff =
          { s with
            seq := { s.seq with confirmTimer := none },
            notices := { s.notices with admission := s.notices.admission.filter fun b => !b.isVerify } }
      ∧ (∀ b : NoticeBody, b.isVerify = true ↔ ∃ t x d l e, b = .verify t x d l e)
      ∧ (∀ e, s.running? = some e ↔ ∃ j, s.seq.job = some j ∧ JobOf s j e)
      ∧ ∀ f, s.modJob f = { s with seq := { s.seq with job := s.seq.job.map f } })
  ∧ ∀ (q : Byte) (s : State), s.takes q →
    let ts := (s.queue.entries.filter fun e =>
      e.state == .queued || e.state == .waitingPort || e.state == .waitingDrive .eject).map (·.tag)
    let s1 := (s.accepted q).endAll ts .cancelled
    (∀ body o, body.length ≤ Config.bodyMax → parseAbort body = .error o →
      exec (.abortAll q body) s = .next (s.answered q (replyFrame q 0x0D#8 .badFormat [byteOf o])))
    ∧ Completes (.abortAll q [0x00#8]) s (s1.reply q 0x0D#8 .ok [byteOf ts.length, 0x00#8])
    ∧ (s.running? = none →
      Completes (.abortAll q [0x01#8]) s (s1.reply q 0x0D#8 .ok [byteOf ts.length, 0x00#8]))
    ∧ (∀ e j, s.seq.job = some j → s.running? = some e →
        e.kind = .stow ∨ (e.kind = .move ∧ e.placed.isSome = true ∧ j.onReturn = none) →
        Completes (.abortAll q [0x01#8]) s (s1.reply q 0x0D#8 .ok [byteOf ts.length, 0x00#8]))
    ∧ (∀ e j, s.seq.job = some j → s.running? = some e → e.state = .running →
        e.kind = .scan ∨ (e.kind = .move ∧ (e.placed = none ∨ j.onReturn.isSome = true)) →
        Completes (.abortAll q [0x01#8]) s
          (State.reply
            (s1.modJob fun j => { j with interruption := j.interruption.or (some .stop) })
            q 0x0D#8 .ok [byteOf ts.length, 0x01#8]))
    ∧ ∀ e j, TagsApart s → s.seq.job = some j → s.running? = some e → e.state = .awaitingConfirm → e.kind = .move →
        e.placed = none →
        Completes (.abortAll q [0x01#8]) s
          ((s1.endHandOff.sentHome j e (.interrupted .stop) .aborted none).reply q 0x0D#8 .ok
            [byteOf ts.length, 0x01#8])

/-- What an entry's end leaves (R47): its result and state, no claim of its tag at the locations it names, a free
picker where it held it, no wait and no load result of its tag at a bay, whose record is otherwise as it was (R109),
and its completion notice, with what R149 gives its body, asked for; nothing else changes.  The live entry of a tag,
the locations an entry names (R39) and a location as a notice shows it (R178) stand first. -/
def Obligations.EntryReachesDone : Prop :=
  (∀ s : State, (∀ t, s.entry? t = s.queue.entries.find? fun e => e.tag == t)
      ∧ (∀ e : Entry, e.names =
          e.source.toList ++ e.dest.toList ++ (match e.scan with
            | some g => g.locs
            | none => []))
      ∧ (∀ p, s.view (.slot p) = ⟨.slot p, s.map.logicalOf s.nPhys p⟩)
      ∧ (∀ x, (∀ p, x ≠ .slot p) → s.view x = ⟨x, none⟩)
      ∧ ∀ t r c, s.entry? t = none → s.entryDone t r c = s)
  ∧ ∀ (s : State) (t : Tag) (r : Result) (c : Option ScanCounts) (e : Entry), s.entry? t = some e →
    (∃ d, (s.entryDone t r c).entry? t = some d ∧ d.identity = e.identity ∧ d.state = .done
        ∧ d.result = some r ∧ (e.scan.isSome = true → d.counts.isSome = true))
    ∧ (∀ x ∈ e.names, ((s.entryDone t r c).inv.place x).claims = (s.inv.place x).claims.filter (· != t))
    ∧ (∀ x, x ∉ e.names → (s.entryDone t r c).inv.place x = s.inv.place x)
    ∧ (∀ j, s.seq.job = some j → j.kind = .entry t →
        (s.entryDone t r c).seq = { s.seq with job := none, picker := s.seq.picker.afterJob })
    ∧ ((s.seq.job.map Job.kind) ≠ some (.entry t) → (s.entryDone t r c).seq = s.seq)
    ∧ (∀ n, (s.entryDone t r c).bay n =
        if (s.bay n).waiting.map (·.1) = some t then { s.bay n with waiting := none, loadResult := none } else s.bay n)
    ∧ ∃ b : NoticeBody,
        (e.kind ≠ .scan →
          b = .completionMove t e.kind e.accNumber r (e.source.map s.view) (e.dest.map s.view)
            (match e.placed with
              | some l => l
              | none => if e.held = true then s.inv.gripper.holds else none)
            e.expected)
        ∧ (∀ g k, e.kind = .scan → e.scan = some g → k = c.getD ⟨0, 0, 0, g.locs.head?⟩ →
          b = .completionScan t e.accNumber r g.kind g.first g.last k.audited k.occupied k.changed
            (k.firstNot.map s.view))
        ∧ b.completes = some t
        ∧ (s.entryDone t r c =
            State.askNotice
              { s with
                queue :=
                  { s.queue with
                    entries := s.queue.entries.map fun x =>
                      if x.tag = t then
                        { x with
                          state := .done, result := some r,
                          counts := c.or (x.scan.map fun g => ⟨0, 0, 0, g.locs.head?⟩) }
                      else x },
                inv := (s.entryDone t r c).inv, bays := (s.entryDone t r c).bays, seq := (s.entryDone t r c).seq }
              b)
        ∧ ((s.notices.admission = [] ∧ s.notices.queue.length < 24
              ∧ (s.entryDone t r c).notices.queue = s.notices.queue ++ [⟨s.notices.next, 1, b⟩]
              ∧ (s.entryDone t r c).notices.admission = [])
          ∨ (¬ (s.notices.admission = [] ∧ s.notices.queue.length < 24)
              ∧ (s.entryDone t r c).notices.queue = s.notices.queue
              ∧ (s.entryDone t r c).notices.admission = s.notices.admission ++ [b]))

/-- A notice that enters, in every way it can (R39, R91, R140 to R142): it takes the next number at the end of the
queue, with transmit count 1, is handed to the link, where it takes the place of a waiting frame of its number or waits
behind the others (R172), and starts the repeat timer of an empty queue; the entry of a COMPLETION has its notice state
QUEUED, and a VERIFY starts the confirm timer.  A COMPLETION or VERIFY asked for enters or joins the admission list
(R145). How an attention asked for is taken (R147), and how the queue is refilled from the admission list and then the
summary (R144 steps 2 and 3, R148).  What a change of a location's record leaves (R7), and what the inventory does
after every update (R11): each flag says whether another location holds the label, and an update that creates a
duplication asks for one DUPLICATE_LABEL, every other for none. -/
def Obligations.NoticesEnterOrWait : Prop :=
  (∀ (s : State) (b : NoticeBody),
      let n : Notice := ⟨s.notices.next, 1, b⟩
      let entered : State :=
        { s with
          notices :=
            { s.notices with
              queue := s.notices.queue ++ [n], next := s.notices.next + 1,
              repeatTimer :=
                if s.notices.queue = [] then some s.params.repeatInterval else s.notices.repeatTimer },
          link :=
            { s.link with
              noticeFrames :=
                if ∃ m ∈ s.link.noticeFrames, m.number = s.notices.next then
                  s.link.noticeFrames.map fun m => if m.number = s.notices.next then n else m
                else s.link.noticeFrames ++ [n] } }
      let queued (t : Tag) : State :=
        { entered with
          queue :=
            { s.queue with
              entries := s.queue.entries.map fun e => if e.tag = t then { e with noticeQueued := true } else e } }
      s.enterNotice b =
          (match b with
          | .completionMove t .. => queued t
          | .completionScan t .. => queued t
          | .verify .. => { entered with seq := { s.seq with confirmTimer := some s.params.confirmLimit } }
          | .attention _ => entered
          | .summary _ => entered)
      ∧ s.askNotice b =
          (if s.notices.admission = [] ∧ s.notices.queue.length < 24 then s.enterNotice b
          else { s with notices := { s.notices with admission := s.notices.admission ++ [b] } }))
  ∧ (∀ (s : State) (a : Attention),
      (s.notices.admission = [] → s.notices.queue.length < 24 → s.notices.summary = [] →
        (s.askAttention a).notices.queue = s.notices.queue ++ [⟨s.notices.next, 1, .attention a⟩]
        ∧ (s.askAttention a).notices.next = s.notices.next + 1
        ∧ (s.askAttention a).notices.summary = [] ∧ (s.askAttention a).notices.admission = []
        ∧ s.askAttention a = s.enterNotice (.attention a))
      ∧ (¬ (s.notices.admission = [] ∧ s.notices.queue.length < 24 ∧ s.notices.summary = []) →
        (s.askAttention a).notices.queue = s.notices.queue
        ∧ (s.askAttention a).notices.admission = s.notices.admission
        ∧ (∀ k, k ∈ (s.askAttention a).notices.summary ↔ k = a.kind ∨ k ∈ s.notices.summary)
        ∧ ((s.askAttention a).notices.summary.map fun k => k.code.toNat).Pairwise (· < ·)
        ∧ s.askAttention a
          = { s with notices := { s.notices with summary := (s.askAttention a).notices.summary } }))
  ∧ (∀ s : State, State.refill [] s = s
      ∧ (∀ b r, State.refill (b :: r) s =
          if s.notices.queue.length < 24 then
            State.refill r (State.enterNotice { s with notices := { s.notices with admission := r } } b)
          else s)
      ∧ s.enterSummary =
          if s.notices.admission = [] ∧ s.notices.queue.length < 24 ∧ s.notices.summary ≠ [] then
            State.enterNotice { s with notices := { s.notices with summary := [] } } (.summary s.notices.summary)
          else s)
  ∧ (∀ s : State, s.notices.queue.length ≤ 24 →
      let k := min s.notices.admission.length (24 - s.notices.queue.length)
      let t := State.refill s.notices.admission s
      (t.notices.queue.map fun m => (m.number, m.body))
          = (s.notices.queue.map fun m => (m.number, m.body))
            ++ ((s.notices.admission.take k).zipIdx.map fun p => (s.notices.next + BitVec.ofNat 16 p.2, p.1))
      ∧ t.notices.admission = s.notices.admission.drop k
      ∧ t.notices.next = s.notices.next + BitVec.ofNat 16 k
      ∧ t.notices.summary = s.notices.summary
      ∧ (t.notices.admission = [] → t.notices.queue.length < 24 → t.notices.summary ≠ [] →
          t.enterSummary.notices.queue = t.notices.queue ++ [⟨t.notices.next, 1, .summary t.notices.summary⟩]
          ∧ t.enterSummary.notices.summary = [])
      ∧ (¬ (t.notices.admission = [] ∧ t.notices.queue.length < 24 ∧ t.notices.summary ≠ []) →
          t.enterSummary = t))
  ∧ (∀ v : Inventory,
      v.locations =
        (List.range v.slots.length).map .slot ++ (List.range v.bays.length).map .bay
          ++ (List.range v.cells.length).map .cell ++ [.gripper]
      ∧ (∀ n, v.place (.slot n) = v.slots.getD n PlaceRec.notKnown ∧ v.place (.bay n) = v.bays.getD n PlaceRec.notKnown
        ∧ v.place (.cell n) = v.cells.getD n PlaceRec.notKnown)
      ∧ v.place .gripper = v.gripper
      ∧ (∀ p : PlaceRec, p.holds = if p.occ = .occupied then p.label else none)
      ∧ ∀ x : Bool, v.gripperSensed x =
          v.put .gripper (if x = true then .occupied else .empty) v.gripper.holds)
  ∧ (∀ (v : Inventory) (x : Loc) (o : Occ) (l : Option Label),
      (v.put x o l).locations = v.locations
      ∧ (x ∈ v.locations →
        (v.put x o l).place x = { v.place x with occ := o, label := if o = .occupied then l else none })
      ∧ ∀ y, y ≠ x → (v.put x o l).place y = v.place y)
  ∧ ∀ (s : State) (f : Inventory → Inventory),
      let w := f s.inv
      let t : State := s.inventoryUpdate f
      let held (v : Inventory) (x : Loc) : Option Label :=
        if (v.place x).occ = .occupied then (v.place x).label else none
      let holders (v : Inventory) (l : Label) : List Loc := v.locations.filter fun x => held v x == some l
      let creates (x : Loc) (l : Label) : Prop :=
        x ∈ w.locations ∧ held w x = some l ∧ held s.inv x ≠ some l ∧ 2 ≤ (holders w l).length
          ∧ (holders s.inv l).length < (holders w l).length
      t.inv.locations = w.locations
      ∧ (∀ x ∈ w.locations,
        t.inv.place x = { w.place x with dup := (t.inv.place x).dup }
        ∧ ((t.inv.place x).dup = true ↔ ∃ l, held w x = some l ∧ ∃ y ∈ w.locations, y ≠ x ∧ held w y = some l))
      ∧ (∀ x l, creates x l → (∀ y k, creates y k → y = x) →
        t = State.askAttention { s with inv := t.inv } (.duplicateLabel l x (holders w l).length))
      ∧ ((∀ x l, ¬ creates x l) → t = { s with inv := t.inv })

/-- When the picker is free (R68, R51).  The start checks of a MOVE and of a STOW, in order (R53, R54), and that a SCAN
has none; when an entry is eligible but for the picker (R49); a MOVE accepted with the picker IDLE and nothing before
it, which runs at once (R51, as log entry 8 has it: the model's choice, DEDUCED); and the choice (R50, R52), seen at
RESUME with the picker free.  That each of R51's other events makes the choice too is in the statements of the commands
that take them, by `ChoiceMade` (see the head of this file).  A MOVE that heads its claims at a LOADED bay has eject
asserted and waits for it (R107).  With no MOVE queued at a LOADED bay, the pending port audit goes first; otherwise
the oldest eligible entry becomes RUNNING, or ends at its start checks and the next choice is made at once; a job
begins with HOME where the picker is UNHOMED, UNPARK where it is PARKED, and otherwise its first TRAVEL (R69, R72,
R73); and a choice that selects nothing starts the park timer (R70). -/
def Obligations.ChoiceAndStartChecks : Prop :=
  (∀ q : Sequencer, q.free = true ↔
      q.job = none ∧ (q.picker = .idle ∨ q.picker = .parked ∨ q.picker = .unhomed))
  ∧ (∀ (s : State) (e : Entry) (d : Loc), e.dest = some d →
      let rest : Option Result :=
        if (s.inv.place d).occ = .occupied then some .destinationFull
        else match d with
          | .slot p => if s.map.retired p then some .destinationRetired else none
          | .bay n => if (s.bay n).state = .absent then some .driveRemoved else none
          | _ => none
      (∀ x, e.kind = .move → e.source = some x →
        s.startCheck e =
          if (s.inv.place x).occ = .unknown ∨ (s.inv.place d).occ = .unknown then some .locationUnknown
          else if (s.inv.place x).occ = .empty then some .sourceEmpty
          else rest)
      ∧ (e.kind = .stow →
        s.startCheck e = if (s.inv.place d).occ = .unknown then some .locationUnknown else rest))
  ∧ (∀ (s : State) (e : Entry), e.kind = .scan → s.startCheck e = none)
  ∧ (∀ (q : Byte) (s : State) (b : MoveBody) (x d : Loc), s.takes q → b.wellFormed = true → TagsApart s →
      s.ctl.mode = .ready ∨ s.ctl.mode = .maintenance → s.queue.hold = false → s.seq.free = true →
      s.seq.picker = .idle → s.entry? b.tag = none → s.queue.entries.length < 12 →
      (∀ e ∈ s.queue.entries, e.state ≠ .queued) → s.resolve .moveSource b.source = .ok x →
      s.resolve .moveDest b.dest = .ok d → x ≠ d → s.destRefusal d = none →
      (x.isCell = true ∨ d.isCell = true → s.port.state = .secured) →
      s.port.state ≠ .auditPending ∨ s.port.mark ≠ .pending →
      (s.inv.place x).occ = .occupied → (s.inv.place d).occ = .empty →
      (s.inv.place x).claims = [] → (s.inv.place d).claims = [] →
      (∀ n, x = .bay n → (s.bay n).state = .ejected ∨ (s.bay n).state = .empty ∨ (s.bay n).state = .absent) →
      ∃ t, exec (.move q b.bytes) s = .next t
        ∧ t.link.cache = some (replyFrame q 0x06#8 .accepted (be32 (s.queue.accepted + 1)))
        ∧ (t.entry? b.tag).map (fun e => (e.state, e.source, e.dest)) = some (.running, some x, some d)
        ∧ t.seq.job.map Job.kind = some (.entry b.tag) ∧ t.seq.picker = .busy ∧ t.seq.parkTimer = none
        ∧ t.mech = ⟨some ⟨s.mech.lastNumber + 1, .travel, some x⟩, s.mech.lastNumber + 1, some s.params.stageLimit⟩)
  ∧ (∀ (q : Byte) (s : State) (e : Entry) (n : Nat), s.takes q → TagsApart s → s.queue.hold = true →
      s.seq.free = true → s.ctl.mode = .ready ∨ s.ctl.mode = .maintenance → e ∈ s.queue.entries →
      e.state = .queued → e.kind = .move → e.source = some (.bay n) → (s.bay n).state = .loaded →
      (∀ x ∈ e.names, (s.inv.place x).claims.head? = some e.tag) →
      ∃ t, exec (.resume q []) s = .next t
        ∧ (t.bay n).state = .ejecting ∧ (t.bay n).eject = true ∧ (t.bay n).ejectTimer = some s.params.ejectLimit
        ∧ (t.bay n).waiting = some (e.tag, .eject)
        ∧ (t.entry? e.tag).map (·.state) = some (.waitingDrive .eject)
        ∧ (t.inv.place (.bay n)).holds = (s.inv.place (.bay n)).holds)
  ∧ (∀ (s : State) (e : Entry), s.eligible e = true ↔
      e.state = .queued ∧ (∀ x ∈ e.names, (s.inv.place x).claims.head? = some e.tag)
      ∧ (e.kind = .stow → s.ctl.mode = .holding)
      ∧ (e.kind ≠ .stow → s.ctl.mode = .ready ∨ s.ctl.mode = .maintenance) ∧ s.queue.hold = false
      ∧ ∀ n, e.kind = .move → e.source = some (.bay n) →
          (s.bay n).state = .ejected ∨ (s.bay n).state = .empty ∨ (s.bay n).state = .absent)
  ∧ ∀ (q : Byte) (s : State), s.takes q → TagsApart s → s.queue.hold = true → s.seq.free = true →
      (∀ e ∈ s.queue.entries, ∀ n, e.kind = .move → e.source = some (.bay n) → (s.bay n).state ≠ .loaded) →
      let on : State :=
        { s with queue := { s.queue with hold := false }, seq := { s.seq with parkTimer := none } }
      let next (v : State) : Option Entry := v.queue.entries.find? v.eligible
      let due : Prop := s.port.state = .auditPending ∧ s.port.mark = .pending
        ∧ (s.ctl.mode = .ready ∨ s.ctl.mode = .maintenance)
      let sent (t : State) (p : Picker) (k : OrderKind) (x : Option Loc) (len : Nat) : Prop :=
        t.seq.picker = p ∧ t.mech = ⟨some ⟨s.mech.lastNumber + 1, k, x⟩, s.mech.lastNumber + 1, some len⟩
      let begins (t : State) (x : Loc) : Prop :=
        t.seq.parkTimer = none
        ∧ (s.seq.picker = .idle → sent t .busy .travel (some x) s.params.stageLimit)
        ∧ (s.seq.picker = .parked → sent t .busy .unpark none s.params.stageLimit)
        ∧ (s.seq.picker = .unhomed → sent t .homing .home none (4 * s.params.stageLimit))
      let runs (t : State) (e : Entry) : Prop :=
        t.seq.job.map Job.kind = some (.entry e.tag)
        ∧ (t.entry? e.tag).map (fun d => (d.identity, d.state)) = some (e.identity, .running)
      let rests (t : State) (p : Option Nat) : Prop :=
        t.seq.job = none ∧ t.mech = s.mech ∧ t.seq.picker = s.seq.picker
        ∧ t.seq.parkTimer =
            if s.seq.picker = .idle ∧ p = none ∧ s.params.parkDelay ≠ 0 then some s.params.parkDelay else p
      let ends (t : State) (e : Entry) (r : Result) : Prop :=
        (t.entry? e.tag).map (fun d => (d.identity, d.state, d.result)) = some (e.identity, .done, some r)
      (due → ∃ t, exec (.resume q []) s = .next t ∧ begins t (.cell 0) ∧ t.port.mark = .running
        ∧ t.seq.job.map Job.kind = some .portAudit ∧ t.queue.entries = s.queue.entries)
      ∧ (¬ due → next on = none → ∃ t, exec (.resume q []) s = .next t ∧ rests t s.seq.parkTimer
        ∧ t.queue.entries = s.queue.entries)
      ∧ (∀ e x, ¬ due → next on = some e → s.startCheck e = none →
        (e.kind = .move ∧ e.source = some x) ∨ (e.kind = .stow ∧ e.dest = some x)
          ∨ (e.kind = .scan ∧ ∃ g r, e.scan = some g ∧ g.locs.dropWhile (fun y => !s.callsForOrders y) = x :: r) →
        ∃ t, exec (.resume q []) s = .next t ∧ begins t x ∧ runs t e
          ∧ ∀ y ∈ s.queue.entries, y.tag ≠ e.tag → y ∈ t.queue.entries)
      ∧ ∀ e r, ¬ due → next on = some e → s.startCheck e = some r →
        let v := on.entryDone e.tag r
        (next v = none → ∃ t, exec (.resume q []) s = .next t ∧ ends t e r ∧ rests t none)
        ∧ ∀ d x, next v = some d → v.startCheck d = none →
          (d.kind = .move ∧ d.source = some x) ∨ (d.kind = .stow ∧ d.dest = some x) →
          ∃ t, exec (.resume q []) s = .next t ∧ ends t e r ∧ begins t x ∧ runs t d

/-! ### The requests that set the block's modes -/

/-- PAUSE sets the hold flag and RESUME clears it, in every mode and whatever the flag (R59); a body that is not empty
is BAD_FORMAT. -/
def Obligations.HoldFlag : Prop :=
  ∀ (q : Byte) (s : State), s.takes q →
    (∀ body o, body.length ≤ Config.bodyMax → parseEmpty body = .error o →
      exec (.pause q body) s = .next (s.answered q (replyFrame q 0x0E#8 .badFormat [byteOf o]))
      ∧ exec (.resume q body) s = .next (s.answered q (replyFrame q 0x0F#8 .badFormat [byteOf o])))
    ∧ Completes (.pause q []) s
      (State.reply { s.accepted q with queue := { s.queue with hold := true } } q 0x0E#8 .ok [])
    ∧ Completes (.resume q []) s
      (State.reply { s.accepted q with queue := { s.queue with hold := false } } q 0x0F#8 .ok [])

/-- PORT_UNLOCK and PORT_LOCK by the port state (R116, R117); an entry that names a cell is a port entry (R46). -/
def Obligations.PortUnlockAndLock : Prop :=
  (∀ x : Loc, x.isCell = true ↔ ∃ n, x = .cell n)
  ∧ (∀ e : Entry, e.isPort = true ↔ ∃ x ∈ e.names, x.isCell = true)
  ∧ ∀ (q : Byte) (s : State), s.takes q →
    (∀ body o, body.length ≤ Config.bodyMax → parseEmpty body = .error o →
      exec (.portUnlock q body) s = .next (s.answered q (replyFrame q 0x10#8 .badFormat [byteOf o]))
      ∧ exec (.portLock q body) s = .next (s.answered q (replyFrame q 0x11#8 .badFormat [byteOf o])))
    ∧ (s.port.state ≠ .secured →
      exec (.portUnlock q []) s = .next (s.answered q (replyFrame q 0x10#8 .portState [])))
    ∧ (s.port.state = .secured →
      (∃ e ∈ s.queue.entries, (e.state = .running ∨ e.state = .awaitingConfirm) ∧ ∃ x ∈ e.names, x.isCell = true) →
      exec (.portUnlock q []) s = .next (s.answered q (replyFrame q 0x10#8 .portBusy [])))
    ∧ (s.port.state = .secured →
      (¬ ∃ e ∈ s.queue.entries, (e.state = .running ∨ e.state = .awaitingConfirm) ∧ ∃ x ∈ e.names, x.isCell = true) →
      Completes (.portUnlock q []) s
        (State.reply
          { s.accepted q with
            port := ⟨.released, false, s.port.mark⟩,
            queue :=
              { s.queue with
                entries := s.queue.entries.map fun e =>
                  if e.state = .queued ∧ e.isPort = true then { e with state := .waitingPort } else e } }
          q 0x10#8 .ok []))
    ∧ (s.port.state = .released →
      Completes (.portLock q []) s
        (State.reply
          { s.accepted q with
            port := ⟨.secured, true, s.port.mark⟩,
            queue :=
              { s.queue with
                entries := s.queue.entries.map fun e =>
                  if e.state = .waitingPort then { e with state := .queued } else e } }
          q 0x11#8 .ok []))
    ∧ (s.port.state = .closed →
      Completes (.portLock q []) s
        (State.reply { s.accepted q with port := ⟨.auditPending, true, .pending⟩ } q 0x11#8 .ok []))
    ∧ (s.port.state = .secured ∨ s.port.state = .auditPending →
      exec (.portLock q []) s = .next (s.answered q (replyFrame q 0x11#8 .ok [])))
    ∧ (s.port.state = .opened →
      exec (.portLock q []) s = .next (s.answered q (replyFrame q 0x11#8 .portState [])))

/-- What a change of the mode is (R70, R153), and MAINTENANCE_ENTER and MAINTENANCE_LEAVE by the mode (R156). -/
def Obligations.MaintenanceByMode : Prop :=
  (∀ (s : State) (m : LibMode) (c : ModeCause) (t : Option Tag),
      s.setMode m c t =
        State.askAttention
          { s with
            ctl := { s.ctl with mode := m },
            seq :=
              { s.seq with parkTimer := if m = .stopped ∨ m = .initializing then none else s.seq.parkTimer } }
          (.modeChanged (some s.ctl.mode) m (if m = .holding then some s.ctl.ret else none) c t))
  ∧ (∀ m : LibMode, m.recorded = if m = .maintenance then .maintenance else .ready)
  ∧ ReturnMode.ready.lib = .ready ∧ ReturnMode.maintenance.lib = .maintenance
  ∧ ∀ (q : Byte) (s : State), s.takes q →
    let changed (m : LibMode) : State :=
      State.askAttention { s.accepted q with ctl := { s.ctl with mode := m } }
        (.modeChanged (some s.ctl.mode) m none .maintenanceRequest none)
    (∀ body o, body.length ≤ Config.bodyMax → parseEmpty body = .error o →
      exec (.maintenanceEnter q body) s = .next (s.answered q (replyFrame q 0x12#8 .badFormat [byteOf o]))
      ∧ exec (.maintenanceLeave q body) s = .next (s.answered q (replyFrame q 0x13#8 .badFormat [byteOf o])))
    ∧ (s.ctl.mode = .ready →
      Completes (.maintenanceEnter q []) s ((changed .maintenance).reply q 0x12#8 .ok []))
    ∧ (s.ctl.mode ≠ .ready →
      exec (.maintenanceEnter q []) s = .next (s.answered q (replyFrame q 0x12#8 .modeRefused [])))
    ∧ (s.ctl.mode = .maintenance →
      Completes (.maintenanceLeave q []) s ((changed .ready).reply q 0x13#8 .ok []))
    ∧ (s.ctl.mode ≠ .maintenance →
      exec (.maintenanceLeave q []) s = .next (s.answered q (replyFrame q 0x13#8 .modeRefused [])))

/-- RECOVER by the mode and the line, and the release of the line (R154, R160). -/
def Obligations.RecoverAndRelease : Prop :=
  ∀ s : State,
    (s.powered = true →
      Completes .emergencyStopReleased s { s with ctl := { s.ctl with stopLine := false } })
    ∧ ∀ q, s.takes q →
      (∀ body o, body.length ≤ Config.bodyMax → parseEmpty body = .error o →
        exec (.recover q body) s = .next (s.answered q (replyFrame q 0x19#8 .badFormat [byteOf o])))
      ∧ (s.ctl.mode ≠ .stopped →
        exec (.recover q []) s = .next (s.answered q (replyFrame q 0x19#8 .modeRefused [])))
      ∧ (s.ctl.mode = .stopped → s.ctl.stopLine = true →
        exec (.recover q []) s = .next (s.answered q (replyFrame q 0x19#8 .notReleased [])))
      ∧ (s.ctl.mode = .stopped → s.ctl.stopLine = false →
        Completes (.recover q []) s
          (State.ordered
            (State.askAttention
              { (s.accepted q).reply q 0x19#8 .ok [] with
                ctl := { s.ctl with mode := .initializing }, seq := { s.seq with parkTimer := none } }
              (.modeChanged (some .stopped) .initializing none .recover none))
            { Job.fresh (.homing false) none with stage := some (.home .firstProper) } .homing .home none))

/-- NOTICE_ACK of a queued number: that notice and every older one go, with their waiting frames and the entries whose
completions they were; the queue is refilled and the repeat timer restarted (R143, R144, R48). -/
def Obligations.NoticeAckRemoves : Prop :=
  ∀ (q : Byte) (s : State) (n : Word16), s.takes q →
    (∀ body o, body.length ≤ Config.bodyMax → parseAck body = .error o →
      exec (.noticeAck q body) s = .next (s.answered q (replyFrame q 0x18#8 .badFormat [byteOf o])))
    ∧ (s.notices.queue.findIdx? (fun m => m.number == n) = none →
      exec (.noticeAck q (be16 n)) s = .next (s.answered q (replyFrame q 0x18#8 .ackUnknown [])))
    ∧ ∀ i, s.notices.queue.findIdx? (fun m => m.number == n) = some i →
      let gone := s.notices.queue.take (i + 1)
      let a : State :=
        { s.accepted q with
          notices := { s.notices with queue := s.notices.queue.drop (i + 1) },
          queue :=
            { s.queue with
              entries := s.queue.entries.filter fun e =>
                !(gone.filterMap fun m => m.body.completes).contains e.tag },
          link :=
            { (s.accepted q).link with
              noticeFrames := s.link.noticeFrames.filter fun f => !gone.any fun g => g.number == f.number } }
      let b := (State.refill s.notices.admission (a.reply q 0x18#8 .ok [byteOf (i + 1)])).enterSummary
      Completes (.noticeAck q (be16 n)) s
        { b with
          notices :=
            { b.notices with
              repeatTimer := if b.notices.queue.isEmpty then none else some s.params.repeatInterval } }

/-- RESET SOFT (R162, with R15, R62, R113, R127, R151, R154, R173): the reply first, then the reset.  The queue, the
admission list, the summary and the waiting notice frames are emptied; MODE_CHANGED with cause RESET is asked for
exactly when the mode differs, behind the DUPLICATE_LABEL that the reset's one update asks for where it creates a
duplication, which it does not where the labels are in order (`LabelsOkKept`).  Whether the label of a bay in EJECTING
that is derived LOADED is kept is the free value of log entry 28 (R113).  The location of the stage in progress (R75,
R159) and a halted audit's mark (R125) stand first. -/
def Obligations.ResetSoftResets : Prop :=
  (∀ s : State,
    (s.running? = none ∨ s.seq.job = none → s.stageLocation = none)
    ∧ ∀ e j, s.running? = some e → s.seq.job = some j →
      let place : Option Loc := if j.onReturn.isSome then e.source else e.dest
      s.stageLocation =
        match j.stage with
        | some .pick => e.source
        | some (.retract .pickFault) => e.source
        | some (.retract .pickNone) => e.source
        | some .place => place
        | some (.retract .placed) => place
        | some (.retract .placeFault) => place
        | _ => none)
  ∧ (∀ m : AuditMark, m.halted = if m = .running then .pending else m)
  ∧ (∀ (q : Byte) (x : Sense) (s : State), s.takes q → ∀ body o, body.length ≤ Config.bodyMax →
    parseReset body = .error o →
    exec (.resetSoft q body x) s = .next (s.answered q (replyFrame q 0x1A#8 .badFormat [byteOf o])))
  ∧ ∀ (q : Byte) (x : Sense) (s : State), s.takes q → ∃ t, exec (.resetSoft q [0x00#8] x) s = .next t
    ∧ t.queue = ⟨[], false, s.queue.accepted⟩
    ∧ (∀ p ∈ t.inv.records, p.claims = [])
    ∧ (let m : LibMode := if s.ctl.stopLine then .stopped else .initializing
      ∃ ds : List NoticeBody, ds.length ≤ 1 ∧ (∀ b ∈ ds, ∃ l y k, b = .attention (.duplicateLabel l y k))
        ∧ (LabelsOk s → ds = [])
        ∧ (let told : List NoticeBody :=
            if s.ctl.mode = m then ds
            else ds ++ [.attention (.modeChanged (some s.ctl.mode) m none .reset none)]
          t.notices =
            ⟨told.zipIdx.map fun p => ⟨s.notices.next + BitVec.ofNat 16 p.2, 1, p.1⟩, [], [],
              s.notices.next + BitVec.ofNat 16 told.length,
              if told = [] then none else some s.params.repeatInterval⟩))
    ∧ t.link =
        Link.startNext
          { s.link with
            receiver := .hunting, lastSeq := some q, cache := some (replyFrame q 0x1A#8 .ok []),
            replyPending := false, replies := s.link.replies ++ [⟨replyFrame q 0x1A#8 .ok [], false⟩],
            noticeFrames := t.notices.queue }
    ∧ t.map = s.map ∧ t.store = s.store ∧ t.params = s.params ∧ t.straps = s.straps
    ∧ t.pins = samplePins s.pins x
    ∧ t.bays = s.bays.mapIdx (fun n _ =>
        { Bay.noDrive with state := derivedState (driveAt (samplePins s.pins x).drives n) })
    ∧ t.port = { s.port with mark := s.port.mark.halted }
    ∧ t.ctl = { s.ctl with mode := if s.ctl.stopLine then .stopped else .initializing }
    ∧ t.seq.picker = (if s.ctl.stopLine then .unhomed else .homing)
    ∧ t.seq.parkTimer = none ∧ t.seq.confirmTimer = none
    ∧ t.mech.outstanding = (if s.ctl.stopLine then none else some ⟨s.mech.lastNumber + 1, .home, none⟩)
    ∧ t.inv.gripper.occ = (if x.gripper then .occupied else .empty)
    ∧ (s.stageLocation ≠ some .gripper →
        t.inv.gripper.holds = (if x.gripper then s.inv.gripper.holds else none))
    ∧ (∀ n, .bay n ∈ s.inv.locations →
        let st := derivedState (driveAt (samplePins s.pins x).drives n)
        (t.inv.place (.bay n)).occ = (if st = .loaded ∨ st = .ejected then .occupied else .empty)
        ∧ (t.inv.place (.bay n)).holds =
            if (st = (s.bay n).state ∧ (st = .loaded ∨ st = .ejected))
                ∨ (Config.resetKeepsEjectingLabel ∧ (s.bay n).state = .ejecting ∧ st = .loaded)
              then (s.inv.place (.bay n)).label else none)
    ∧ (∀ y : Loc, (∀ n, y ≠ .bay n) → y ≠ .gripper → some y ≠ s.stageLocation →
        (t.inv.place y).occ = (s.inv.place y).occ ∧ (t.inv.place y).holds = (s.inv.place y).holds)
    ∧ ∀ y ∈ s.inv.locations, (∀ n, y ≠ .bay n) → y ≠ .gripper → s.stageLocation = some y →
        (t.inv.place y).occ = .unknown ∧ (t.inv.place y).holds = none

/-- RESET FULL: when it is taken (R163, R174), and at its reload, where every block takes its power-on values (R14,
R22, R61, R87, R112, R126, R150), the map store by loading a bank or its defaults (R33, R34), and a start is told
(R154). How the entries and the link stand in the interval is log entry 19's (DEDUCED). -/
def Obligations.ResetFullThenReload : Prop :=
  (∀ (q : Byte) (s : State), s.takes q →
    (∀ body o, body.length ≤ Config.bodyMax → parseReset body = .error o →
      exec (.resetFull q body) s = .next (s.answered q (replyFrame q 0x1A#8 .badFormat [byteOf o])))
    ∧ Completes (.resetFull q [0x01#8]) s
      (let a := (s.accepted q).reply q 0x1A#8 .ok [] true
      { a with
        seq := ⟨none, .unhomed, none, none⟩,
        mech := { s.mech with outstanding := none, stageTimer := none },
        port := { s.port with mark := s.port.mark.halted },
        ctl := { s.ctl with mode := .initializing },
        link := { a.link with resetWait := some ⟨false, false⟩ } }))
  ∧ ∀ (x : Sense) (s : State) (w : ResetWait), s.powered = true → s.link.resetWait = some w →
    w.reloaded = false → s.store.commit = none → ∃ t, exec (.resetFullReload x) s = .next t
      ∧ t.straps = s.straps ∧ t.queue = ⟨[], false, 0⟩
      ∧ t.inv.slots = List.replicate s.nPhys PlaceRec.notKnown
      ∧ t.inv.cells = List.replicate 6 PlaceRec.notKnown
      ∧ t.inv.gripper = ⟨if x.gripper then .occupied else .empty, none, false, []⟩
      ∧ t.inv.bays = (List.range s.nBays).map
          (fun n => ⟨(derivedState (driveAt (samplePins s.pins x).drives n)).occ, none, false, []⟩)
      ∧ t.bays = (List.range s.nBays).map
          (fun n => { Bay.noDrive with state := derivedState (driveAt (samplePins s.pins x).drives n) })
      ∧ t.port = (if s.pins.doorOpen then ⟨.opened, false, .noMark⟩ else ⟨.auditPending, true, .pending⟩)
      ∧ t.map.faults = List.replicate s.nPhys 0 ∧ LoadsMap s.store t
      ∧ t.seq.picker = (if s.ctl.stopLine then .unhomed else .homing)
      ∧ t.seq.parkTimer = none ∧ t.seq.confirmTimer = none
      ∧ t.ctl = ⟨if s.ctl.stopLine then .stopped else .initializing, .ready, s.ctl.stopLine⟩
      ∧ t.mech.outstanding = (if s.ctl.stopLine then none else some ⟨1, .home, none⟩)
      ∧ t.notices.queue.head?.map (·.number) = some 0
      ∧ (∃ n, ⟨n, 1, .attention (.modeChanged none t.ctl.mode none .start none)⟩ ∈ t.notices.queue)
      ∧ (w.replySent = true →
          t.link.receiver = .hunting ∧ t.link.lastSeq = none ∧ t.link.cache = none ∧ t.link.resetWait = none)
      ∧ (w.replySent = false → t.link.resetWait = some ⟨false, true⟩)

/-! ### The map, the parameters and the map store -/

/-- RETIRE_SLOT, CONSOLIDATE and SET_EXPOSED: the first check that fails refuses the request (R27, R28, R30). -/
def Obligations.MapRequestRefusals : Prop :=
  ∀ (q : Byte) (s : State), s.takes q →
    (∀ body o, body.length ≤ Config.bodyMax →
      (parseByte body = .error o →
        exec (.retireSlot q body) s = .next (s.answered q (replyFrame q 0x15#8 .badFormat [byteOf o]))
        ∧ exec (.setExposed q body) s = .next (s.answered q (replyFrame q 0x14#8 .badFormat [byteOf o])))
      ∧ (parseEmpty body = .error o →
        exec (.consolidate q body) s = .next (s.answered q (replyFrame q 0x16#8 .badFormat [byteOf o]))))
    ∧ (∀ (b : Byte) (st : Status),
      (if s.ctl.mode ≠ .maintenance then some Status.modeRefused
        else if s.queue.entries.any (fun e => e.state != .done) then some .queueNotEmpty
        else if s.nPhys ≤ b.toNat then some .noSuchLocation
        else if s.map.retired b.toNat then some .alreadyRetired
        else if 16 ≤ s.map.grown.length then some .mapFull
        else none) = some st →
      exec (.retireSlot q [b]) s = .next (s.answered q (replyFrame q 0x15#8 st [])))
    ∧ (∀ st,
      (if s.ctl.mode ≠ .maintenance then some Status.modeRefused
        else if s.queue.entries.any (fun e => e.state != .done) then some .queueNotEmpty
        else if 24 < s.map.base.length + s.map.grown.length then some .listOverflow
        else if s.nPhys - (s.map.base.length + s.map.grown.length) < 12 then some .listOverflow
        else none) = some st →
      exec (.consolidate q []) s = .next (s.answered q (replyFrame q 0x16#8 st [])))
    ∧ ∀ (b : Byte) (st : Status),
      (if s.ctl.mode ≠ .maintenance then some Status.modeRefused
        else if s.queue.entries.any (fun e => e.state != .done) then some .queueNotEmpty
        else if s.map.grown ≠ [] then some .mapNotClean
        else if b.toNat < 1 ∨ s.available < b.toNat then some .outOfRange
        else if b.toNat < s.map.exposed ∧
            (((s.map.baseOrder s.nPhys).take s.map.exposed).drop b.toNat).any
              (fun p => (s.inv.place (.slot p)).occ != .empty) then some .slotsOccupied
        else none) = some st →
      exec (.setExposed q [b]) s = .next (s.answered q (replyFrame q 0x14#8 st []))

/-- RETIRE_SLOT, CONSOLIDATE and SET_EXPOSED that pass their checks change the map at once, send their notices, ask for
a commit, and leave their reply to wait for it (R24, R26, R29, R30, R35, R37). -/
def Obligations.MapRequestsTaken : Prop :=
  ∀ (q : Byte) (s : State), s.takes q → s.ctl.mode = .maintenance → (∀ e ∈ s.queue.entries, e.state = .done) →
    let waits (k : Byte) (a : State) : State :=
      { a with store := { a.store with wait := some ⟨q, k, a.store.commit.isSome⟩ } }
    (∀ (b : Byte) (g : GrownEntry), b.toNat < s.nPhys → s.map.retired b.toNat = false → s.map.grown.length < 16 →
      g = ⟨b.toNat, s.map.logicalOf s.nPhys b.toNat,
        if (s.map.logicalOf s.nPhys b.toNat).isSome then (s.map.freeSpares s.nPhys).head? else none⟩ →
      let a : State :=
        { waits 0x15#8 (s.accepted q) with
          map := { s.map with grown := s.map.grown ++ [g], faults := s.map.faults.set b.toNat 0 } }
      let c := a.askAttention (.slotRetired b.toNat .request none g.logical g.substitute
        (s.inv.place (.slot b.toNat)).occ (s.inv.place (.slot b.toNat)).holds)
      Completes (.retireSlot q [b]) s
        (match g.logical, g.substitute with
          | some l, none => (c.askAttention (.logicalLost l b.toNat)).askCommit
          | _, _ => c.askCommit))
    ∧ (∀ base : List Nat, s.map.base.length + s.map.grown.length ≤ 24 →
      12 ≤ s.nPhys - (s.map.base.length + s.map.grown.length) →
      base = (List.range s.nPhys).filter (fun p => s.map.retired p) →
      Completes (.consolidate q []) s
        (waits 0x16#8
          (State.askAttention
            { s.accepted q with
              map :=
                ⟨base, [], min s.map.exposed (s.nPhys - base.length), s.map.faults.map fun _ => 0⟩ }
            (.mapChanged (s.nPhys - base.length) (min s.map.exposed (s.nPhys - base.length))
              base.length 0))).askCommit)
    ∧ ∀ b : Byte, s.map.grown = [] → 1 ≤ b.toNat → b.toNat ≤ s.available →
      (∀ p ∈ ((s.map.baseOrder s.nPhys).take s.map.exposed).drop b.toNat,
        (s.inv.place (.slot p)).occ = .empty) →
      (s.map.exposed = b.toNat →
        Completes (.setExposed q [b]) s (waits 0x14#8 (s.accepted q)).askCommit)
      ∧ (s.map.exposed ≠ b.toNat →
        Completes (.setExposed q [b]) s
          (waits 0x14#8
            (State.askAttention { s.accepted q with map := { s.map with exposed := b.toNat } }
              (.mapChanged s.available b.toNat s.map.base.length 0))).askCommit)

/-- SET_PARAMETERS: a malformed body is BAD_FORMAT; the first value out of its range refuses the request; otherwise the
whole set is replaced at once, counts above a lowered T come down to it, and the reply waits on the commit (R165, R22,
R37). -/
def Obligations.SetParametersReplaces : Prop :=
  (∀ (q : Byte) (s : State) (body : List Byte) (o : Nat), s.takes q → body.length ≤ Config.bodyMax →
    parseParams body = .error o →
    exec (.setParameters q body) s = .next (s.answered q (replyFrame q 0x17#8 .badFormat [byteOf o])))
  ∧ ∀ (q : Byte) (s : State) (b : ParamBody), s.takes q → b.wellFormed = true →
    let bad := [3 < b.retries, b.threshold < 1 ∨ 8 < b.threshold, b.stageLimit < 500 ∨ 30000 < b.stageLimit,
      b.confirmLimit < 5 ∨ 600 < b.confirmLimit, b.loadLimit < 5 ∨ 300 < b.loadLimit,
      b.ejectLimit < 5 ∨ 300 < b.ejectLimit, b.parkDelay ≠ 0 ∧ (b.parkDelay < 10 ∨ 3600 < b.parkDelay),
      1 < b.autoRelock, b.repeatInterval < 200 ∨ 10000 < b.repeatInterval]
    (∀ (i : Nat) (h : i < bad.length), (bad[i]'h) → (∀ j, (k : j < i) → ¬ (bad[j]'(Nat.lt_trans k h))) →
      exec (.setParameters q b.bytes) s = .next (s.answered q (replyFrame q 0x17#8 .outOfRange [byteOf i])))
    ∧ ((∀ p ∈ bad, ¬ p) →
      Completes (.setParameters q b.bytes) s
        (State.askCommit
          { s.accepted q with
            params :=
              ⟨b.retries, b.threshold, b.stageLimit, b.confirmLimit, b.loadLimit, b.ejectLimit, b.parkDelay,
                b.autoRelock == 1, b.repeatInterval⟩,
            map := { s.map with faults := s.map.faults.map fun n => min n b.threshold },
            store := { s.store with wait := some ⟨q, 0x17#8, s.store.commit.isSome⟩ } }))

/-- How a commit is asked for: it starts at once, into the bank other than the newest, with the next generation and the
map and parameters as they stand, or it is pending behind the one in flight.  A commit that finishes with another
pending, by success or by final failure, starts that one at once: a reply that waits on the finished commit goes out,
and one that waits on the pending commit goes on waiting (R35, R36, R37). -/
def Obligations.CommitsFollowOneAnother : Prop :=
  (∀ s : State,
      (∀ c, s.store.commit = some c → s.askCommit = { s with store := { s.store with commitPending := true } })
      ∧ (s.store.commit = none → ∃ c, s.askCommit.store.commit = some c
          ∧ c.target = (if s.store.newest = some .bank0 then .bank1 else .bank0)
          ∧ c.image = ⟨s.store.newestGen + 1, s.map.base, s.map.grown, s.map.exposed, s.params⟩
          ∧ c.retrying = false ∧ c.earlier = s.store.bank c.target
          ∧ (s.askCommit.store.bank c.target).checkMatches = false
          ∧ (∀ i, i ≠ c.target → s.askCommit.store.bank i = s.store.bank i)
          ∧ s.askCommit = { s with store := s.askCommit.store }))
  ∧ (∀ (s : State) (c : Commit), s.powered = true → s.store.commit = some c → s.store.commitPending = true →
      s.link.resetWait = none →
      let follows (t : State) (i : BankId) (g : Word32) : Prop :=
        t.store.commitPending = false ∧ (t.store.bank i).checkMatches = false ∧ ∃ d, t.store.commit = some d
          ∧ d.target = i ∧ d.image = ⟨g, s.map.base, s.map.grown, s.map.exposed, s.params⟩ ∧ d.retrying = false
      let answers (t : State) (st : Status) : Prop := ∀ w, s.store.wait = some w →
        (w.onPending = true →
          t.store.wait = some { w with onPending := false } ∧ t.link.cache = s.link.cache
            ∧ t.link.replyPending = s.link.replyPending)
        ∧ (w.onPending = false →
          t.store.wait = none ∧ t.link.cache = some (replyFrame w.seq w.kind st []) ∧ t.link.replyPending = false)
      (∃ t, exec (.bankWriteComplete true) s = .next t
        ∧ t.store.newest = some c.target ∧ t.store.newestGen = c.image.generation ∧ t.store.unsaved = false
        ∧ follows t (if c.target = .bank0 then .bank1 else .bank0) (c.image.generation + 1) ∧ answers t .stored)
      ∧ (c.retrying = false →
        Completes (.bankWriteComplete false) s
          { s with store := { s.store with commit := some { c with retrying := true } } })
      ∧ (c.retrying = true → ∃ t, exec (.bankWriteComplete false) s = .next t
        ∧ t.store.newest = s.store.newest ∧ t.store.newestGen = s.store.newestGen ∧ t.store.unsaved = true
        ∧ t.notices = (s.askAttention (.storeFault c.target c.image.generation)).notices
        ∧ follows t (if s.store.newest = some .bank0 then .bank1 else .bank0) (s.store.newestGen + 1)
        ∧ answers t .notStored))

/-- BANK_WRITE_COMPLETE (R35, R36, R37): success makes the target the newest bank; a first failure is retried; a second
is final, and STORE_FAULT is asked for.  The reply that waited on this commit goes out. -/
def Obligations.BankWriteCompletes : Prop :=
  ∀ (s : State) (c : Commit), s.powered = true → s.store.commit = some c → s.store.commitPending = false →
    (∃ t, exec (.bankWriteComplete true) s = .next t
      ∧ t.store.newest = some c.target ∧ t.store.newestGen = c.image.generation
      ∧ t.store.bank c.target = ⟨c.image, true⟩ ∧ t.store.unsaved = false ∧ t.store.commit = none
      ∧ t.map = s.map ∧ t.params = s.params
      ∧ ∀ w, s.store.wait = some w → w.onPending = false →
          t.link.cache = some (replyFrame w.seq w.kind .stored []) ∧ t.link.replyPending = false
          ∧ t.store.wait = none)
    ∧ (c.retrying = false →
        Completes (.bankWriteComplete false) s
          { s with store := { s.store with commit := some { c with retrying := true } } })
    ∧ (c.retrying = true → ∃ t, exec (.bankWriteComplete false) s = .next t
      ∧ t.store.newest = s.store.newest ∧ t.store.newestGen = s.store.newestGen
      ∧ t.store.bank c.target = s.store.bank c.target ∧ t.store.unsaved = true ∧ t.store.commit = none
      ∧ t.map = s.map ∧ t.params = s.params
      ∧ t.notices = (s.askAttention (.storeFault c.target c.image.generation)).notices
      ∧ ∀ w, s.store.wait = some w → w.onPending = false →
          t.link.cache = some (replyFrame w.seq w.kind .notStored []) ∧ t.link.replyPending = false
          ∧ t.store.wait = none)

/-! ### Jobs: outcomes and expiries -/

/-- HOME_OUTCOME.  Of the start's homing (R155): READY or HOLDING by the gripper sensor; a second attempt after a first
failure; FAULTED after a second, with no location changed and the gripper's record standing (R155, which governs over
R16 there: log entry 13, DEDUCED).  Of a job's HOME (R69, R74, R84): REACHED sends the job's first proper stage (R123, R130), or the same TRAVEL again, or acts on the interruption (R83, R86, R125)
or the home test (R81, R82); FAULT goes to FAULTED (R85, R137).  That the home test is made at the end of a return
path's rehoming HOME is log entry 16's, that a location that calls for no order is counted by its before-values is log
entry 18's, and the order at entry to FAULTED is log entry 26's (with log entry 13, all the model's choice, DEDUCED). -/
def Obligations.HomeOutcomes : Prop :=
  (∀ (s : State) (n : Byte) (x : Sense) (j : Job) (st : Stage) (second : Bool), Awaits s n .home j st →
    j.kind = .homing second → s.seq.picker = .homing →
    let a : State := s.taken.sample x
    let idle : State :=
      { a with seq := { s.seq with job := none, picker := .idle }, ctl := { s.ctl with ret := .ready } }
    (x.gripper = true →
      Completes (.homeOutcome n .reached x) s
        ((idle.inventoryUpdate (·.gripperSensed true)).setMode .holding .homed))
    ∧ (x.gripper = false →
      Completes (.homeOutcome n .reached x) s
        ((idle.inventoryUpdate (·.gripperSensed false)).setMode .ready .homed).cancelStows)
    ∧ (second = false →
      Completes (.homeOutcome n .fault x) s
        (a.ordered { j with kind := .homing true, stage := some (.home .firstProper) } .homing .home none))
    ∧ (second = true →
      Completes (.homeOutcome n .fault x) s
        (a.halted .faulted .homingFailed none)))
  ∧ ∀ (s : State) (n : Byte) (x : Sense) (j : Job) (next : AfterHome), Awaits s n .home j (.home next) →
    (∀ second, j.kind ≠ .homing second) →
    let a : State := s.taken.sample x
    let go (t : TravelTo) (y : Option Loc) : Prop :=
      Completes (.homeOutcome n .reached x) s
        (a.ordered { j with stage := some (.travel t) } .busy .travel y)
    (∀ e, JobOf s j e → e.kind = .move → j.onReturn = none → j.interruption = none →
      (next = .firstProper ∨ next = .travelAgain .source → go .source e.source)
      ∧ (next = .travelAgain .dest → go .dest e.dest))
    ∧ (∀ e, JobOf s j e → e.kind = .stow → j.interruption = none →
      next = .firstProper ∨ next = .travelAgain .dest → go .dest e.dest)
    ∧ (∀ e i, JobOf s j e → e.kind = .move ∨ e.kind = .stow → e.placed = none → j.onReturn = none →
      j.interruption = some i → Completes (.homeOutcome n .reached x) s (a.broken j e i))
    ∧ (∀ e c, JobOf s j e → e.kind = .move → j.onReturn = some c → next = .travelAgain .source →
      (s.homeTest e = true → go .source e.source)
      ∧ (s.homeTest e = false → Completes (.homeOutcome n .reached x) s (a.giveUp e c.noHome)))
    ∧ (∀ e v, JobOf s j e → e.kind = .scan → j.audit = some v →
      (next = .travelAgain .scan ∨ (next = .firstProper ∧ v.byOrders = true) → go .scan (some v.current))
      ∧ (next = .firstProper → v.byOrders = false →
        Completes (.homeOutcome n .reached x) s (a.scanGoesOn j e v.passed v.rest)))
    ∧ (∀ v, j.kind = .portAudit → j.audit = some v →
      (j.interruption = none → next = .travelAgain .scan ∨ (next = .firstProper ∧ v.byOrders = true) →
        go .scan (some v.current))
      ∧ (j.interruption.isSome = true →
        Completes (.homeOutcome n .reached x) s
          { a with seq := { s.seq with job := none, picker := s.seq.picker.afterJob } }))
    ∧ (∀ e, JobOf s j e →
      Completes (.homeOutcome n .fault x) s (a.endsFaulted e none (j.audit.map Audit.cut)))
    ∧ (j.kind = .portAudit →
      Completes (.homeOutcome n .fault x) s ((a.halted .faulted .mechanism none).unsettled none))

/-- TRAVEL_OUTCOME (R75, R81, R84, R86, R130): REACHED goes on to the PICK, the PLACE or the PROBE of the job, or acts
on the interruption or the home test (R74, R83, R86, R125); a job's first travel fault is rehomed, and its second goes
to FAULTED (R85).  Where the home test is made is log entry 16's, that a SCAN's PROBE is sent also at a cell the door
has disturbed since its TRAVEL was sent is log entry 11's, and the order at entry to FAULTED is log entry 26's (all the
model's choice, DEDUCED). -/
def Obligations.TravelOutcomes : Prop :=
  ∀ (s : State) (n : Byte) (x : Sense) (j : Job) (t : TravelTo), Awaits s n .travel j (.travel t) →
    let a : State := s.taken.sample x
    let first (st : Stage) : Job := { j with stage := some st, retry := 0, keptRetries := s.params.retries }
    (∀ e, JobOf s j e → e.kind = .move → t = .source → j.onReturn = none → j.interruption = none →
      Completes (.travelOutcome n .reached x) s (a.ordered (first .pick) .busy .pick none))
    ∧ (∀ e, JobOf s j e → e.kind = .move ∨ e.kind = .stow → t = .dest → j.onReturn = none →
      j.interruption = none →
      Completes (.travelOutcome n .reached x) s (a.ordered (first .place) .busy .place none))
    ∧ (∀ e i, JobOf s j e → e.kind = .move ∨ e.kind = .stow → e.placed = none → j.onReturn = none →
      j.interruption = some i →
      Completes (.travelOutcome n .reached x) s (a.broken j e i))
    ∧ (∀ e c, JobOf s j e → e.kind = .move → t = .source → j.onReturn = some c → s.homeTest e = true →
      Completes (.travelOutcome n .reached x) s (a.ordered (first .place) .busy .place none))
    ∧ (∀ e c, JobOf s j e → e.kind = .move → t = .source → j.onReturn = some c → s.homeTest e = false →
      Completes (.travelOutcome n .reached x) s (a.giveUp e c.noHome))
    ∧ (∀ e, JobOf s j e → e.kind = .scan → t = .scan →
      Completes (.travelOutcome n .reached x) s (a.ordered (first .probe) .busy .probe none))
    ∧ (j.kind = .portAudit → t = .scan → j.interruption = none →
      Completes (.travelOutcome n .reached x) s (a.ordered (first .probe) .busy .probe none))
    ∧ (j.kind = .portAudit → t = .scan → j.interruption.isSome = true →
      Completes (.travelOutcome n .reached x) s
        { a with seq := { s.seq with job := none, picker := s.seq.picker.afterJob } })
    ∧ (j.travelRetried = false →
      Completes (.travelOutcome n .fault x) s
        (a.ordered { j with travelRetried := true, stage := some (.home (.travelAgain t)) } .homing .home none))
    ∧ (∀ e, JobOf s j e → j.travelRetried = true →
      Completes (.travelOutcome n .fault x) s (a.endsFaulted e none (j.audit.map Audit.cut)))
    ∧ (j.kind = .portAudit → j.travelRetried = true →
      Completes (.travelOutcome n .fault x) s ((a.halted .faulted .mechanism none).unsettled none))

/-- PICK_OUTCOME of a MOVE (R21, R76, R79, R111, R122): what HELD and NONE leave at a slot, a port cell and a bay, what
follows HELD (R74, R75, R83, R90), and a FAULT, which is reported to the slot map when the PICK is exhausted.  That a
cell's outcome is recorded while its own audit runs is log entry 10's (DEDUCED). -/
def Obligations.PickOutcomes : Prop :=
  ∀ (s : State) (n : Byte) (x : Sense) (j : Job) (e : Entry), Awaits s n .pick j .pick →
    JobOf s j e → e.kind = .move → j.onReturn = none → e.placed = none →
    let a : State := s.taken.sample x
    let known : Bool := s.port.state == .secured || s.port.mark == .running
    let holding (v : State) : State :=
      { v with
        queue :=
          { v.queue with
            entries := v.queue.entries.map fun y => if y.tag = e.tag then { y with held := true } else y } }
    let held (v : State) : Prop :=
      let w := holding v
      (j.interruption = none → e.skipLabel = false →
        Completes (.pickOutcome n .held x) s (w.ordered { j with stage := some .identify } .busy .read none))
      ∧ (j.interruption = none → e.skipLabel = true → e.verify = false →
        Completes (.pickOutcome n .held x) s
          (w.ordered { j with stage := some (.travel .dest) } .busy .travel e.dest))
      ∧ (j.interruption = none → e.skipLabel = true → e.verify = true →
        Completes (.pickOutcome n .held x) s
          (State.askNotice
            { w with
              seq := { w.seq with job := some { j with stage := none } },
              queue :=
                { w.queue with
                  entries := w.queue.entries.map fun y =>
                    if y.tag = e.tag then { y with state := .awaitingConfirm } else y } }
            (.verify e.tag (e.source.map s.view) (e.dest.map s.view) e.labelRead e.expected)))
      ∧ ∀ i, j.interruption = some i →
        Completes (.pickOutcome n .held x) s (w.broken j { e with held := true } i)
    let none' (v : State) : Prop :=
      Completes (.pickOutcome n .noneFound x) s
        (v.ordered { j with stage := some (.retract .pickNone) } .busy .retract none)
    (∀ p, e.source = some (.slot p) →
      held
        { a.inventoryUpdate (fun v =>
            (v.put (.slot p) .empty none).put .gripper .occupied (s.inv.place (.slot p)).holds) with
          map := { s.map with faults := s.map.faults.set p 0 } }
      ∧ none' (a.inventoryUpdate fun v => v.put (.slot p) .empty none))
    ∧ (∀ p, e.source = some (.cell p) →
      let o : Occ := if known then .empty else .unknown
      held (a.inventoryUpdate fun v =>
          (v.put (.cell p) o none).put .gripper .occupied (s.inv.place (.cell p)).holds)
      ∧ none' (a.inventoryUpdate fun v => v.put (.cell p) o none))
    ∧ (∀ p, e.source = some (.bay p) →
      let st := derivedState (driveAt (samplePins s.pins x).drives p)
      held
        ((a.bayUpdate p (if (s.bay p).state = .absent then .absent else .empty) none
          (·.put .gripper .occupied (s.inv.place (.bay p)).holds)).modBay p fun b =>
            match b.waiting with
            | some (t, _) => if t = e.tag then { b with waiting := none, loadResult := none } else b
            | none => b)
      ∧ none' (a.bayUpdate p st (if st = (s.bay p).state then (s.inv.place (.bay p)).label else none)))
    ∧ (j.retry < j.keptRetries →
      Completes (.pickOutcome n .fault x) s
        (a.ordered { j with stage := some (.retract .pickFault) } .busy .retract none))
    ∧ (j.keptRetries ≤ j.retry →
      (∀ p, e.source = some (.slot p) →
        Completes (.pickOutcome n .fault x) s
          ((a.reportFailure (some (.slot p)) e.tag).ordered
            { j with stage := some (.retract .pickFault) } .busy .retract none))
      ∧ ∀ p, e.source = some (.cell p) ∨ e.source = some (.bay p) →
        Completes (.pickOutcome n .fault x) s
          (a.ordered { j with stage := some (.retract .pickFault) } .busy .retract none))

/-- PLACE_OUTCOME of a MOVE or STOW at its destination, or of a MOVE at its source on the return path (R78, R79, R81,
R105, R122).  That a cell's outcome is recorded while its own audit runs is log entry 10's (DEDUCED). -/
def Obligations.PlaceOutcomes : Prop :=
  ∀ (s : State) (n : Byte) (j : Job) (e : Entry), Awaits s n .place j .place → JobOf s j e →
    let place : Option Loc := if j.onReturn.isSome then e.source else e.dest
    let wait : Option (Tag × DriveWait) := if j.onReturn.isSome then none else some (e.tag, .load)
    let l := s.inv.gripper.holds
    let onward (v : State) : State :=
      State.ordered
        { v with
          queue :=
            { v.queue with
              entries := v.queue.entries.map fun y =>
                if y.tag = e.tag then { y with placed := some l } else y } }
        { j with stage := some (.retract .placed) } .busy .retract none
    (∀ p, place = some (.slot p) →
      let v : State := s.taken.inventoryUpdate fun v => (v.put (.slot p) .occupied l).put .gripper .empty none
      Completes (.placeOutcome n .placed) s
        (onward { v with map := { s.map with faults := s.map.faults.set p 0 } }))
    ∧ (∀ p, place = some (.cell p) → s.port.state = .secured ∨ s.port.mark = .running →
      Completes (.placeOutcome n .placed) s
        (onward (s.taken.inventoryUpdate fun v => (v.put (.cell p) .occupied l).put .gripper .empty none)))
    ∧ (∀ p, place = some (.cell p) → s.port.state ≠ .secured → s.port.mark ≠ .running →
      Completes (.placeOutcome n .placed) s
        (onward (s.taken.inventoryUpdate fun v => (v.put (.cell p) .unknown none).put .gripper .empty none)))
    ∧ (∀ p, place = some (.bay p) → (s.bay p).state ≠ .absent →
      Completes (.placeOutcome n .placed) s
        (onward
          ((s.taken.bayUpdate p .loading l (·.put .gripper .empty none)).modBay p fun b =>
            { b with loadTimer := some s.params.loadLimit, waiting := wait, loadResult := none })))
    ∧ (∀ p, place = some (.bay p) → (s.bay p).state = .absent →
      Completes (.placeOutcome n .placed) s
        (onward
          ((s.taken.inventoryUpdate fun v => v.put .gripper .empty none).modBay p fun b =>
            { b with
              waiting := wait, loadResult := if j.onReturn.isSome then none else some .driveRemoved })))
    ∧ (j.retry < j.keptRetries →
      Completes (.placeOutcome n .fault) s
        (s.taken.ordered { j with stage := some (.retract .placeFault) } .busy .retract none))
    ∧ (j.keptRetries ≤ j.retry →
      Completes (.placeOutcome n .fault) s
        ((s.taken.reportFailure place e.tag).ordered
          { j with stage := some (.retract .placeFault) } .busy .retract none))

/-- RETRACT_OUTCOME (R74, R76, R78, R79, R81, R82, R83, R85, R86): how a MOVE and a STOW end, wait for the drive, try
again, take the return path, or act on an interruption, which after PLACED is dropped; and a FAULT, which goes to
FAULTED. First the result each cause gives a return path that succeeds (R81) and one whose home test fails (R82), what
giving the path up does (R82, R157), what becomes of the other STOWs as HOLDING is left (R55), and the picker a job
leaves (R68, R73). The order at a STOW's end is log entry 15's, where the home test is made is log entry 16's, the
exhausted PLACE of a STOW is log entry 17's, and the order at entry to FAULTED is log entry 26's (all DEDUCED). -/
def Obligations.RetractOutcomes : Prop :=
  (∀ p : Picker, p.afterJob = if p = .unhomed then .unhomed else .idle)
  ∧ (∀ c : Cause,
    c.result = (match c with
      | .placeFailed => .placeFailed
      | .interrupted .stop => .aborted
      | .interrupted .driveRemoved => .driveRemoved
      | .interrupted .portDisturbed => .portDisturbed
      | .returned => .returned
      | .confirmTimeout => .verifyTimeout)
    ∧ c.noHome = (match c with
      | .placeFailed => .placeFailedHeld
      | .interrupted .stop => .aborted
      | .interrupted .driveRemoved => .driveRemoved
      | .interrupted .portDisturbed => .portDisturbed
      | .returned => .returned
      | .confirmTimeout => .verifyTimeout))
  ∧ (∀ (a : State) (e : Entry) (r : Result),
    let b := a.entryDone e.tag r
    let ret : ReturnMode := if a.ctl.mode = .maintenance then .maintenance else .ready
    a.giveUp e r =
      State.askAttention { b with ctl := { a.ctl with mode := .holding, ret := ret } }
        (.modeChanged (some a.ctl.mode) .holding (some ret) .noHome (some e.tag)))
  ∧ (∀ a : State,
    a.cancelStows =
      ((a.queue.entries.filter fun y => y.kind == .stow && (y.state == .queued || y.state == .waitingPort)).map
        (·.tag)).foldl (fun b t => b.entryDone t .cancelled) a)
  ∧ ∀ (s : State) (n : Byte) (x : Sense) (j : Job) (e : Entry) (after : RetractAfter),
    Awaits s n .retract j (.retract after) → JobOf s j e →
    let a : State := s.taken.sample x
    let again (st : Stage) (k : OrderKind) : Prop :=
      Completes (.retractOutcome n .done x) s
        (a.ordered { j with stage := some st, retry := j.retry + 1 } .busy k none)
    let loadWait (b : State) : State :=
      { b with
        seq := { b.seq with job := none, picker := b.seq.picker.afterJob },
        queue :=
          { b.queue with
            entries := b.queue.entries.map fun y =>
              if y.tag = e.tag then { y with state := .waitingDrive .load } else y } }
    let left : State := (a.setMode s.ctl.ret.lib .stowed (some e.tag)).cancelStows
    (after = .pickNone → Completes (.retractOutcome n .done x) s (a.entryDone e.tag .sourceEmpty))
    ∧ (after = .pickFault → j.keptRetries ≤ j.retry →
      Completes (.retractOutcome n .done x) s (a.entryDone e.tag .gripFailed))
    ∧ (after = .pickFault → j.retry < j.keptRetries → e.kind = .move → j.onReturn = none →
      (j.interruption = none → again .pick .pick)
      ∧ ∀ i, j.interruption = some i → e.placed = none →
        Completes (.retractOutcome n .done x) s (a.broken j e i))
    ∧ (after = .placed → e.kind = .move → j.onReturn = none →
      (∀ p, e.dest = some (.slot p) ∨ e.dest = some (.cell p) →
        Completes (.retractOutcome n .done x) s (a.entryDone e.tag .ok))
      ∧ (∀ p r, e.dest = some (.bay p) → (s.bay p).loadResult = some r →
        Completes (.retractOutcome n .done x) s (a.entryDone e.tag r))
      ∧ (∀ p, e.dest = some (.bay p) → (s.bay p).loadResult = none →
        Completes (.retractOutcome n .done x) s (loadWait a)))
    ∧ (after = .placed → e.kind = .stow → j.onReturn = none →
      (∀ p, e.dest = some (.slot p) ∨ e.dest = some (.cell p) →
        Completes (.retractOutcome n .done x) s (left.entryDone e.tag .ok))
      ∧ (∀ p r, e.dest = some (.bay p) → (left.bay p).loadResult = some r →
        Completes (.retractOutcome n .done x) s (left.entryDone e.tag r))
      ∧ (∀ p, e.dest = some (.bay p) → (left.bay p).loadResult = none →
        Completes (.retractOutcome n .done x) s (loadWait left)))
    ∧ (∀ c, after = .placed → j.onReturn = some c →
      Completes (.retractOutcome n .done x) s (a.entryDone e.tag c.result))
    ∧ (after = .placeFault → j.retry < j.keptRetries →
      (e.kind = .move ∨ e.kind = .stow → j.onReturn = none → j.interruption = none → again .place .place)
      ∧ (∀ i, e.kind = .move ∨ e.kind = .stow → j.onReturn = none → j.interruption = some i →
        e.placed = none → Completes (.retractOutcome n .done x) s (a.broken j e i))
      ∧ ∀ c, e.kind = .move → j.onReturn = some c →
        (s.homeTest e = true → again .place .place)
        ∧ (s.homeTest e = false → Completes (.retractOutcome n .done x) s (a.giveUp e c.noHome)))
    ∧ (after = .placeFault → j.keptRetries ≤ j.retry →
      (j.onReturn.isSome = true →
        Completes (.retractOutcome n .done x) s (a.giveUp e .placeFailedHeld))
      ∧ (j.onReturn = none → e.kind = .stow →
        Completes (.retractOutcome n .done x) s (a.entryDone e.tag .placeFailedHeld))
      ∧ (j.onReturn = none → e.kind = .move →
        Completes (.retractOutcome n .done x) s
          (a.sentHome j e .placeFailed .placeFailedHeld j.interruption)))
    ∧ Completes (.retractOutcome n .fault x) s
        (a.endsFaulted e
          (match after with
            | .pickNone => e.source
            | .pickFault => e.source
            | .placed => if j.onReturn.isSome then e.source else e.dest
            | .placeFault => if j.onReturn.isSome then e.source else e.dest)
          (j.audit.map Audit.cut))

/-- PROBE_OUTCOME and READ_OUTCOME of a SCAN and of the port audit (R123, R124, R125, R130 to R136, R138): each is
recorded at the current location, be it a slot, a port cell or a bay; the counts rise at the end of the location, and
the next location's TRAVEL is sent, or the SCAN ends, or the port is SECURED.  That a bay need only be EJECTED as the
outcome is taken is log entry 30's choice, and that the port audit records what it finds while the port is
AUDIT_PENDING is log entry 10's; that no READ follows a PROBE at a cell disturbed before the PROBE was sent is log
entry 11's (all the model's choice, DEDUCED). -/
def Obligations.AuditOutcomes : Prop :=
  (∀ (s : State) (n : Byte) (j : Job) (e : Entry) (a : Audit), JobOf s j e → e.kind = .scan →
    j.audit = some a →
    let closed (c : Instr) (v : State) (exhausted : Bool) : Prop :=
      let r := v.inv.place a.current
      Completes c s
        (v.scanGoesOn j e
          ⟨a.audited + 1, a.occupied + (if r.occ = .occupied ∧ exhausted = false then 1 else 0),
            a.changed + (if r.occ = a.beforeOcc ∧ r.holds = a.beforeLabel then 0 else 1), none⟩
          a.rest)
    let lost : Prop := a.current.isCell = true ∧ s.port.state ≠ .secured ∧ s.port.mark ≠ .running
    (Awaits s n .probe j .probe →
      closed (.probeOutcome n .empty) (s.taken.recordedAt a.current .empty none false) false
      ∧ (¬ lost →
        Completes (.probeOutcome n .occupied) s
          ((s.taken.recordedAt a.current .occupied none false).ordered { j with stage := some .read } .busy .read
            none))
      ∧ (lost → closed (.probeOutcome n .occupied) (s.taken.recordedAt a.current .occupied none false) false)
      ∧ (j.retry < j.keptRetries →
        Completes (.probeOutcome n .fault) s
          (s.taken.ordered { j with stage := some .probe, retry := j.retry + 1 } .busy .probe none))
      ∧ (j.keptRetries ≤ j.retry → closed (.probeOutcome n .fault) s.taken true))
    ∧ (Awaits s n .read j .read →
      (∀ l, labelOk l = true →
        closed (.readOutcome n (.label l)) (s.taken.recordedAt a.current .occupied (some l) true) false)
      ∧ closed (.readOutcome n .noRead) (s.taken.recordedAt a.current .occupied none true) false))
  ∧ ∀ (s : State) (n : Byte) (j : Job) (a : Audit) (p : Nat), j.kind = .portAudit → j.audit = some a →
    a.current = .cell p →
    let ends (v : State) : State := { v with seq := { v.seq with job := none, picker := v.seq.picker.afterJob } }
    let closed (c : Instr) (v : State) (exhausted : Bool) : Prop :=
      let r := v.inv.place (.cell p)
      (j.interruption.isSome = true → Completes c s (ends v))
      ∧ (j.interruption = none → a.rest = [] →
        Completes c s
          (let b := v.askAttention
            (.portAudited ((List.range 6).map fun m =>
              ((v.inv.place (.cell m)).occ, (v.inv.place (.cell m)).holds)))
          ends
            { b with
              port := ⟨.secured, true, .noMark⟩,
              queue :=
                { b.queue with
                  entries := b.queue.entries.map fun e =>
                    if e.state = .waitingPort then { e with state := .queued } else e } }))
      ∧ ∀ m rs, j.interruption = none → a.rest = .cell m :: rs →
        Completes c s
          (v.ordered
            { j with
              stage := some (.travel .scan),
              audit := some
                { current := .cell m, rest := rs, byOrders := true, beforeOcc := (v.inv.place (.cell m)).occ,
                  beforeLabel := (v.inv.place (.cell m)).holds, audited := a.audited + 1,
                  occupied := a.occupied + (if r.occ = .occupied ∧ exhausted = false then 1 else 0),
                  changed := a.changed + (if r.occ = a.beforeOcc ∧ r.holds = a.beforeLabel then 0 else 1) } }
            .busy .travel (some (.cell m)))
    (Awaits s n .probe j .probe →
      closed (.probeOutcome n .empty) (s.taken.recordedAt (.cell p) .empty none false) false
      ∧ (j.interruption = none → s.port.state = .secured ∨ s.port.mark = .running →
        Completes (.probeOutcome n .occupied) s
          ((s.taken.recordedAt (.cell p) .occupied none false).ordered { j with stage := some .read } .busy .read
            none))
      ∧ (j.interruption.isSome = true →
        Completes (.probeOutcome n .occupied) s (ends (s.taken.recordedAt (.cell p) .occupied none false)))
      ∧ (j.interruption = none → j.retry < j.keptRetries →
        Completes (.probeOutcome n .fault) s
          (s.taken.ordered { j with stage := some .probe, retry := j.retry + 1 } .busy .probe none))
      ∧ (j.interruption.isSome = true → Completes (.probeOutcome n .fault) s (ends s.taken))
      ∧ (j.keptRetries ≤ j.retry → closed (.probeOutcome n .fault) s.taken true))
    ∧ (Awaits s n .read j .read →
      (∀ l, labelOk l = true →
        closed (.readOutcome n (.label l)) (s.taken.recordedAt (.cell p) .occupied (some l) true) false)
      ∧ closed (.readOutcome n .noRead) (s.taken.recordedAt (.cell p) .occupied none true) false)

/-- READ_OUTCOME of an IDENTIFY stage (R77) and what follows it: the interruption is acted on (R74, R83), or the
confirm test is made (R75, R88, R89, R90). -/
def Obligations.IdentifyOutcomes : Prop :=
  ∀ (s : State) (n : Byte) (j : Job) (e : Entry), Awaits s n .read j .identify → JobOf s j e →
    e.kind = .move → j.onReturn = none →
    let read (l : Option Label) : State :=
      let b : State :=
        { s.taken with
          queue :=
            { s.queue with
              entries := s.queue.entries.map fun y =>
                if y.tag = e.tag then { y with labelRead := l } else y } }
      if s.inv.gripper.holds = l then b
      else b.inventoryUpdate fun v => v.put .gripper v.gripper.occ l
    let go (v : State) : State := v.ordered { j with stage := some (.travel .dest) } .busy .travel e.dest
    let ask (v : State) (l : Option Label) : State :=
      State.askNotice
        { v with
          seq := { v.seq with job := some { j with stage := none } },
          queue :=
            { v.queue with
              entries := v.queue.entries.map fun y =>
                if y.tag = e.tag then { y with state := .awaitingConfirm } else y } }
        (.verify e.tag (e.source.map s.view) (e.dest.map s.view) l e.expected)
    (j.interruption = none →
      (∀ l, labelOk l = true → (e.verify = false ∨ (e.skipLabel = false ∧ e.expected = some l)) →
        Completes (.readOutcome n (.label l)) s (go (read (some l))))
      ∧ (∀ l, labelOk l = true → e.verify = true → e.expected ≠ some l →
        Completes (.readOutcome n (.label l)) s (ask (read (some l)) (some l)))
      ∧ (e.verify = false → Completes (.readOutcome n .noRead) s (go (read none)))
      ∧ (e.verify = true → Completes (.readOutcome n .noRead) s (ask (read none) none)))
    ∧ ∀ i, j.interruption = some i → e.placed = none →
      (∀ l, labelOk l = true →
        Completes (.readOutcome n (.label l)) s ((read (some l)).broken j { e with labelRead := some l } i))
      ∧ Completes (.readOutcome n .noRead) s ((read none).broken j { e with labelRead := none } i)

/-- A job as it starts (R73), and parking and unparking (R70, R71, R72, R74): UNPARK DONE begins the job's first proper
stage (R123, R130), acts on the interruption (R83, R86) or ends a port audit a forced opening has struck (R125), and
its FAULT is a travel fault (R84, R85, R137).  A location that calls for no order is counted by its before-values (log
entry 18), and the order at entry to FAULTED is log entry 26's (both the model's choice, DEDUCED). -/
def Obligations.ParkingAndUnparking : Prop :=
  (∀ (k : JobKind) (a : Option Audit), Job.fresh k a = ⟨k, none, none, 0, 0, false, none, a⟩)
  ∧ ∀ s : State,
    (s.powered = true → s.seq.parkTimer.isSome = true → s.seq.free = true →
      Completes .parkTimerExpiry s
        (State.ordered { s with seq := { s.seq with parkTimer := none } }
          { Job.fresh .parking none with stage := some .park } .parking .park none))
    ∧ (∀ n j, Awaits s n .park j .park → j.kind = .parking →
      Completes (.parkOutcome n .done) s { s.taken with seq := { s.seq with job := none, picker := .parked } }
      ∧ Completes (.parkOutcome n .fault) s
          { s.taken with seq := { s.seq with job := none, picker := .unhomed } })
    ∧ ∀ n j (x : Sense), Awaits s n .unpark j .unpark →
      let a : State := s.taken.sample x
      let go (t : TravelTo) (y : Option Loc) : Prop :=
        Completes (.unparkOutcome n .done x) s (a.ordered { j with stage := some (.travel t) } .busy .travel y)
      (∀ e, JobOf s j e → j.onReturn = none → j.interruption = none →
        (e.kind = .move → go .source e.source) ∧ (e.kind = .stow → go .dest e.dest))
      ∧ (∀ e v, JobOf s j e → e.kind = .scan → j.audit = some v →
        (v.byOrders = true → go .scan (some v.current))
        ∧ (v.byOrders = false → Completes (.unparkOutcome n .done x) s (a.scanGoesOn j e v.passed v.rest)))
      ∧ (∀ v, j.kind = .portAudit → j.audit = some v → v.byOrders = true → j.interruption = none →
        go .scan (some v.current))
      ∧ (j.kind = .portAudit → j.interruption.isSome = true →
        Completes (.unparkOutcome n .done x) s
          { a with seq := { s.seq with job := none, picker := s.seq.picker.afterJob } })
      ∧ (∀ e i, JobOf s j e → e.kind = .move ∨ e.kind = .stow → e.placed = none → j.onReturn = none →
        j.interruption = some i → Completes (.unparkOutcome n .done x) s (a.broken j e i))
      ∧ (j.travelRetried = false →
        Completes (.unparkOutcome n .fault x) s
          (a.ordered { j with travelRetried := true, stage := some (.home .firstProper) } .homing .home none))
      ∧ (∀ e, JobOf s j e → j.travelRetried = true →
        Completes (.unparkOutcome n .fault x) s (a.endsFaulted e none (j.audit.map Audit.cut)))
      ∧ (j.kind = .portAudit → j.travelRetried = true →
        Completes (.unparkOutcome n .fault x) s ((a.halted .faulted .mechanism none).unsettled none))

/-- Sending an order makes it the outstanding one, with the next number, and starts the stage timer at its kind's
length (R64, R65), and its expiry is handled exactly as a FAULT of that order, or as NO_READ of a READ (R65); an
outcome that does not answer the outstanding order is discarded, and changes no state but that the transmitter goes on
(R66, log entry 7); and a LABEL whose text is no label (empty, over 16 characters, or with one out of range) is taken
as NO_READ, whatever the state (R64). -/
def Obligations.ExpiriesAndStaleOutcomes : Prop :=
  (∀ (s : State) (x : Option Loc),
      (∀ k, s.sendOrder k x =
        { s with mech := ⟨some ⟨s.mech.lastNumber + 1, k, x⟩, s.mech.lastNumber + 1, some (s.stageLength k)⟩ })
      ∧ (∀ k, s.stageLength k =
        if k = .home then 4 * s.params.stageLimit else if k = .read then 1000 else s.params.stageLimit)
      ∧ (s.sendOrder .home x).mech.stageTimer = some (4 * s.params.stageLimit)
      ∧ (s.sendOrder .read x).mech.stageTimer = some 1000
      ∧ ∀ k, k ≠ .home → k ≠ .read → (s.sendOrder k x).mech.stageTimer = some s.params.stageLimit)
  ∧ (∀ (s : State) (n : Byte) (x : Sense) (y : Option Loc) (k : OrderKind), s.powered = true →
      s.mech.outstanding = some ⟨n, k, y⟩ →
      (∃ t, exec (.stageTimerExpiry x) s = .next t)
      ∧ (k = .home → exec (.stageTimerExpiry x) s = exec (.homeOutcome n .fault x) s)
      ∧ (k = .travel → exec (.stageTimerExpiry x) s = exec (.travelOutcome n .fault x) s)
      ∧ (k = .pick → exec (.stageTimerExpiry x) s = exec (.pickOutcome n .fault x) s)
      ∧ (k = .retract → exec (.stageTimerExpiry x) s = exec (.retractOutcome n .fault x) s)
      ∧ (k = .unpark → exec (.stageTimerExpiry x) s = exec (.unparkOutcome n .fault x) s)
      ∧ (k = .place → exec (.stageTimerExpiry x) s = exec (.placeOutcome n .fault) (s.sample x))
      ∧ (k = .probe → exec (.stageTimerExpiry x) s = exec (.probeOutcome n .fault) (s.sample x))
      ∧ (k = .park → exec (.stageTimerExpiry x) s = exec (.parkOutcome n .fault) (s.sample x))
      ∧ (k = .read → exec (.stageTimerExpiry x) s = exec (.readOutcome n .noRead) (s.sample x)))
  ∧ (∀ (c : Instr) (k : OrderKind) (n : Byte) (o : MechOutcome) (s : State), s.powered = true →
      outcomeOf c = some (k, n, o) →
      (∀ x, s.mech.outstanding = some ⟨n, k, x⟩ → k.allows o = false) →
      exec c s = .next { s with link := s.link.startNext })
  ∧ ∀ (n : Byte) (l : List Byte) (s : State),
      l = [] ∨ 16 < l.length ∨ (∃ b ∈ l, b.toNat < 0x20 ∨ 0x7E < b.toNat) →
      exec (.readOutcome n (.label l)) s = exec (.readOutcome n .noRead) s

/-- Failure reports at a slot (R21, R23): the count rises by one, up to T; at T the slot is retired, SLOT_RETIRED is
asked for with cause FAULTS and the tag of the request, LOGICAL_LOST where no spare is free (R26), and a commit; or
MAP_FULL is asked for; a retired slot's count stays, and a failure at any other location changes nothing. -/
def Obligations.FailureReports : Prop :=
  (∀ (s : State) (x : Option Loc) (t : Tag), (∀ p, x ≠ some (.slot p)) → s.reportFailure x t = s)
  ∧ ∀ (s : State) (p : Nat) (t : Tag), p < s.map.faults.length →
    (s.map.retired p = true → s.reportFailure (some (.slot p)) t = s)
    ∧ (s.map.retired p = false → s.map.faultCount p + 1 < s.params.threshold →
      s.reportFailure (some (.slot p)) t
        = { s with map := { s.map with faults := s.map.faults.set p (s.map.faultCount p + 1) } })
    ∧ (∀ g : GrownEntry, s.map.retired p = false → s.params.threshold ≤ s.map.faultCount p + 1 →
      s.map.grown.length < 16 →
      g = ⟨p, s.map.logicalOf s.nPhys p,
        if (s.map.logicalOf s.nPhys p).isSome then (s.map.freeSpares s.nPhys).head? else none⟩ →
      let c : State :=
        State.askAttention
          { s with map := { s.map with grown := s.map.grown ++ [g], faults := s.map.faults.set p 0 } }
          (.slotRetired p .faults (some t) g.logical g.substitute (s.inv.place (.slot p)).occ
            (s.inv.place (.slot p)).holds)
      s.reportFailure (some (.slot p)) t
          = (match g.logical, g.substitute with
            | some l, none => (c.askAttention (.logicalLost l p)).askCommit
            | _, _ => c.askCommit)
      ∧ (s.reportFailure (some (.slot p)) t).map.faultCount p = 0
      ∧ (s.reportFailure (some (.slot p)) t).store.commit.isSome = true)
    ∧ (s.map.retired p = false → s.params.threshold ≤ s.map.faultCount p + 1 → 16 ≤ s.map.grown.length →
      s.reportFailure (some (.slot p)) t
        = State.askAttention
            { s with map := { s.map with faults := s.map.faults.set p s.params.threshold } } (.mapFull p))

/-- The laws of R20, for a map that retirements have made from a clean one: with G the grown list's length, S the free
spares and X the lost logical slots, A = (E − X) + S + G; a logical slot is served by a slot that is not retired, or is
lost; and no slot serves two.  Base order and the slip mapping (R17, R18), what one more entry of the grown list does
to the map, the logical number a slot shows, the lost logical slots and the free spares (R20), and a retirement's entry
(R24) stand first. -/
def Obligations.MapLaws : Prop :=
  (∀ (N : Nat) (m : SlotMap),
    (∀ p, m.retired p = true ↔ p ∈ m.base ∨ ∃ g ∈ m.grown, g.slot = p)
    ∧ m.available N = N - m.base.length
    ∧ m.baseOrder N = (List.range N).filter (fun p => !m.base.contains p)
    ∧ (m.grown = [] → ∀ l, m.physOf N l = if l < m.exposed then (m.baseOrder N)[l]? else none)
    ∧ (∀ g l, { m with grown := m.grown ++ [g] }.physOf N l =
        if g.logical = some l ∧ l < min m.exposed (m.baseOrder N).length then g.substitute
        else if m.physOf N l = some g.slot then none
        else m.physOf N l)
    ∧ (∀ p l, m.logicalOf N p = some l ↔ m.physOf N l = some p ∧ ∀ k, k < l → m.physOf N k ≠ some p)
    ∧ m.lost N = (List.range (min m.exposed (m.baseOrder N).length)).filter (fun l => (m.physOf N l).isNone)
    ∧ m.freeSpares N =
        ((m.baseOrder N).drop m.exposed).filter
          (fun p => !m.grown.any fun g => g.slot == p || g.substitute == some p)
    ∧ (∀ p, m.faultCount p = m.faults.getD p 0)
    ∧ ∀ p, m.retire N p =
        { m with
          grown := m.grown ++
            [⟨p, m.logicalOf N p, if (m.logicalOf N p).isSome then (m.freeSpares N).head? else none⟩],
          faults := m.faults.set p 0 })
  ∧ ∀ (N : Nat) (m : SlotMap) (ps : List Nat), m.grown = [] → ascending m.base = true → (∀ p ∈ m.base, p < N) →
    m.exposed ≤ m.available N → ps.Nodup → (∀ p ∈ ps, p < N ∧ m.retired p = false) →
    let k := ps.foldl (fun k p => k.retire N p) m
    k.available N = (k.exposed - (k.lost N).length) + (k.freeSpares N).length + k.grown.length
    ∧ (∀ l, l < k.exposed → (∀ p, k.physOf N l = some p → p < N ∧ k.retired p = false)
        ∧ (k.physOf N l = none → l ∈ k.lost N ∧ ∃ g ∈ k.grown, g.logical = some l ∧ g.substitute = none))
    ∧ ∀ l l' p, k.physOf N l = some p → k.physOf N l' = some p → l = l'

/-! ### Timers, drives, door and stop -/

/-- The load and eject timers (R106, R108). -/
def Obligations.DriveTimers : Prop :=
  ∀ (s : State) (i : Fin 4), s.powered = true →
    let n := i.val
    let keeps (st : BayState) : State := s.bayUpdate n st (s.inv.place (.bay n)).label
    ((s.bay n).loadTimer.isSome = true →
      (∀ t w e, (s.bay n).waiting = some (t, w) → s.entry? t = some e → e.state = .waitingDrive .load →
        Completes (.loadTimerExpiry i) s ((keeps .ejected).entryDone t .driveNoAccept))
      ∧ (∀ t w e, (s.bay n).waiting = some (t, w) → s.entry? t = some e → e.state = .running →
        Completes (.loadTimerExpiry i) s
          ((keeps .ejected).modBay n fun b => { b with loadResult := b.loadResult.or (some .driveNoAccept) }))
      ∧ ((s.bay n).waiting = none →
        Completes (.loadTimerExpiry i) s
          ((keeps .ejected).askAttention
            (.driveEjected n ((keeps .ejected).inv.place (.bay n)).holds (s.bay n).eject))))
    ∧ ((s.bay n).ejectTimer.isSome = true →
      (∀ t w, (s.bay n).waiting = some (t, w) →
        Completes (.ejectTimerExpiry i) s ((keeps .loaded).entryDone t .driveNoEject))
      ∧ ((s.bay n).waiting = none → Completes (.ejectTimerExpiry i) s (keeps .loaded)))

/-- The drive's own lines (R97, R102, R103, R104, R106, R108, R110): what an insertion and a removal leave at the bay,
and what a removal does to the entry that waits there or holds the picker; ACCEPTED, EJECT_READY and CARTRIDGE in each
bay state, those in which R101's table leaves the record as it stands among them; and what the bay monitor's own update
is (R8, R100), after what sampling the lines, a change of one bay's lines and a change of a bay's record or an entry
are.  Of a bay whose recorded load result keeps a tag, that a later event acts on it as on a bay with no waiting entry,
DRIVE_EJECTED included, and that DRIVE_REMOVED carries the tag, is log entry 20's; which stages leave a falling
CARTRIDGE to their outcome is log entry 25's (both the model's choice, DEDUCED).  That a removal looks for a load result
at the withdrawn bay alone is log entry 31's (the model's choice, DESIGN CHOICE). -/
def Obligations.DriveLineEvents : Prop :=
  (∀ s : State,
    (∀ x : Sense, s.sample x = { s with pins := samplePins s.pins x }
      ∧ (samplePins s.pins x).gripper = x.gripper ∧ (samplePins s.pins x).doorOpen = s.pins.doorOpen
      ∧ ∀ n, driveAt (samplePins s.pins x).drives n = ⟨(driveAt s.pins.drives n).present, driveAt x.drives n⟩)
    ∧ (∀ (i : Fin 4) f,
      s.lines i f = { s with pins := { s.pins with drives := (s.lines i f).pins.drives } }
      ∧ ∀ n, n < 4 → driveAt (s.lines i f).pins.drives n =
          if n = i.val then f (driveAt s.pins.drives n) else driveAt s.pins.drives n)
    ∧ (∀ n, s.bay n = s.bays.getD n Bay.noDrive)
    ∧ (∀ n f, s.modBay n f = { s with bays := s.bays.modify n f })
    ∧ ∀ t f, s.modEntry t f =
        { s with
          queue := { s.queue with entries := s.queue.entries.map fun e => if e.tag = t then f e else e } })
  ∧ (∀ (s : State) (n : Nat) (st : BayState) (l : Option Label) (more : Inventory → Inventory),
    s.bayUpdate n st l more =
      State.inventoryUpdate
        { s with
          bays := s.bays.modify n fun b =>
            { b with
              state := st, eject := b.eject && st == .ejecting,
              loadTimer := if st = .loading then b.loadTimer else none,
              ejectTimer := if st = .ejecting then b.ejectTimer else none } }
        fun v => more (v.put (.bay n) (if st = .absent ∨ st = .empty then .empty else .occupied) l))
  ∧ ∀ (s : State) (i : Fin 4), s.powered = true → i.val < s.nBays →
    let n := i.val
    let l := (s.inv.place (.bay n)).label
    let told (v : State) (r : Result) : State :=
      v.modBay n fun b => { b with loadResult := b.loadResult.or (some r) }
    let ejected (v : State) : State :=
      v.askAttention (.driveEjected n (v.inv.place (.bay n)).holds (s.bay n).eject)
    (∀ x : DriveLines,
      let on : State := s.lines i fun _ => ⟨true, x⟩
      let st : BayState := if x.accepted then .loaded else if x.cartridge then .ejected else .empty
      ((s.bay n).state = .absent → (s.bay n).loadResult = none →
        Completes (.presentRising i x) s
          (State.askAttention ((on.bayUpdate n st none).modBay n fun b => { b with waiting := none })
            (.driveInserted n st)))
      ∧ ((s.bay n).state = .absent → (s.bay n).loadResult.isSome = true →
        Completes (.presentRising i x) s ((on.bayUpdate n st none).askAttention (.driveInserted n st)))
      ∧ ((s.bay n).state ≠ .absent → Completes (.presentRising i x) s on))
    ∧ ((s.bay n).state = .absent →
      Completes (.presentFalling i) s (s.lines i fun p => { p with present := false }))
    ∧ ((s.bay n).state ≠ .absent →
      let out : State :=
        State.askAttention ((s.lines i fun p => { p with present := false }).bayUpdate n .absent none)
          (.driveRemoved n (s.bay n).state (s.inv.place (.bay n)).holds ((s.bay n).waiting.map (·.1)))
      ((s.bay n).waiting = none →
        (s.running? = none → Completes (.presentFalling i) s out)
        ∧ ∀ e j, s.seq.job = some j → JobOf s j e →
          (e.kind = .scan ∨ .bay n ∉ e.names → Completes (.presentFalling i) s out)
          ∧ (e.kind ≠ .scan → .bay n ∈ e.names → e.state = .running →
            Completes (.presentFalling i) s
              (out.modJob fun j => { j with interruption := j.interruption.or (some .driveRemoved) }))
          ∧ (e.kind ≠ .scan → .bay n ∈ e.names → e.state = .awaitingConfirm →
            Completes (.presentFalling i) s
              (out.endHandOff.sentHome j e (.interrupted .driveRemoved) .driveRemoved none)))
      ∧ ∀ t w e, (s.bay n).waiting = some (t, w) → s.entry? t = some e →
        (∀ v, e.state = .waitingDrive v → Completes (.presentFalling i) s (out.entryDone t .driveRemoved))
        ∧ (e.state = .running → Completes (.presentFalling i) s (told out .driveRemoved)))
    ∧ (let on : State := s.lines i fun p => { p with lines := { p.lines with accepted := true } }
      let kept : State := on.bayUpdate n .loaded l
      ((s.bay n).state = .absent ∨ (s.bay n).state = .loaded ∨ (s.bay n).state = .ejecting →
        Completes (.acceptedRising i) s on)
      ∧ ((s.bay n).state = .empty → Completes (.acceptedRising i) s (on.bayUpdate n .loaded none))
      ∧ ((s.bay n).state = .ejected → Completes (.acceptedRising i) s kept)
      ∧ ((s.bay n).state = .loading →
        ((s.bay n).waiting = none → Completes (.acceptedRising i) s kept)
        ∧ ∀ t w e, (s.bay n).waiting = some (t, w) → s.entry? t = some e →
          (e.state = .waitingDrive .load → Completes (.acceptedRising i) s (kept.entryDone t .ok))
          ∧ (e.state = .running → Completes (.acceptedRising i) s (told kept .ok))))
    ∧ (let on : State := s.lines i fun p => { p with lines := { p.lines with ejectReady := true } }
      let out : State := on.bayUpdate n .ejected l
      ((s.bay n).state = .absent ∨ (s.bay n).state = .ejected → Completes (.ejectReadyRising i) s on)
      ∧ ((s.bay n).state = .empty → Completes (.ejectReadyRising i) s (ejected (on.bayUpdate n .ejected none)))
      ∧ ((s.bay n).state = .loaded → Completes (.ejectReadyRising i) s (ejected out))
      ∧ ((s.bay n).state = .loading →
        ((s.bay n).waiting = none → Completes (.ejectReadyRising i) s (ejected out))
        ∧ ∀ t w e, (s.bay n).waiting = some (t, w) → s.entry? t = some e →
          (e.state = .waitingDrive .load → Completes (.ejectReadyRising i) s (out.entryDone t .driveRejected))
          ∧ (e.state = .running → Completes (.ejectReadyRising i) s (told out .driveRejected)))
      ∧ ((s.bay n).state = .ejecting →
        ((s.bay n).waiting = none → Completes (.ejectReadyRising i) s (ejected out))
        ∧ ∀ t e, (s.bay n).waiting = some (t, .eject) → s.entry? t = some e →
          Completes (.ejectReadyRising i) s
            ((out.modBay n fun b => { b with waiting := none }).modEntry t fun e =>
              { e with
                state := if e.isPort && s.port.state != .secured then .waitingPort else .queued })))
    ∧ ∀ accepted : Bool,
      let off : State := s.lines i fun p =>
        { p with lines := { p.lines with cartridge := false, accepted := accepted } }
      let inFlight : Prop := ∃ j, s.seq.job = some j
        ∧ ((j.stage = some .pick ∧ ∃ e, JobOf s j e ∧ e.source = some (.bay n))
          ∨ ((j.stage = some .probe ∨ j.stage = some .read) ∧ j.audit.map (·.current) = some (.bay n)))
      ((s.bay n).state = .ejected → accepted = false → ¬ inFlight →
        Completes (.cartridgeFalling i accepted) s (off.bayUpdate n .empty none))
      ∧ ((s.bay n).state ≠ .ejected ∨ accepted = true ∨ inFlight →
        Completes (.cartridgeFalling i accepted) s off)

/-- The door (R97, R118, R119, R120, R121, R125, R135): an opening of a closed door makes the six cells UNKNOWN and
sends its notice; it disturbs the entry that names a cell and holds the picker, but for a SCAN, which a forced opening
only names, and a forced opening ends a running port audit; a closing locks the port for its audit, or waits for
PORT_LOCK.  How an entry goes between QUEUED and WAITING_PORT with the port (R46) stands first.  That DOOR_FORCED takes
whether the audit was running from the audit mark is the model's choice (log entry 22, DEDUCED).  The spec has no
opening of a port that is OPEN: that DOOR_OPENING changes the sensed level alone there is the model's choice (log entry
6, DESIGN CHOICE). -/
def Obligations.DoorEvents : Prop :=
  (∀ (before after : PortState) (e : Entry),
    e.portChange before after =
      if before = .secured ∧ after ≠ .secured ∧ e.state = .queued ∧ e.isPort = true then
        { e with state := .waitingPort }
      else if after = .secured ∧ e.state = .waitingPort then { e with state := .queued }
      else e)
  ∧ ∀ s : State, s.powered = true →
    let moved (p : Port) (open' : Bool) : State :=
      { s with
        pins := { s.pins with doorOpen := open' }, port := p,
        queue := { s.queue with entries := s.queue.entries.map (Entry.portChange s.port.state p.state) } }
    let opened (p : Port) (m : List Tag → Attention) (ts : List Tag) : State :=
      State.askAttention
        ((moved p true).inventoryUpdate fun v => { v with cells := v.cells.map fun p => p.set .unknown none }) (m ts)
    let tell (a : State) : State :=
      a.modJob fun j => { j with interruption := j.interruption.or (some .portDisturbed) }
    let disturbs (a : List Tag → State) (audit : State → State) : Prop :=
      (s.seq.job = none → Completes .doorOpening s (a []))
      ∧ (∀ j, s.seq.job = some j → j.kind = .parking ∨ j.kind = .homing true ∨ j.kind = .homing false →
        Completes .doorOpening s (a []))
      ∧ (∀ j, s.seq.job = some j → j.kind = .portAudit → Completes .doorOpening s (audit (a [])))
      ∧ ∀ e j, s.seq.job = some j → JobOf s j e →
        (e.isPort = false → Completes .doorOpening s (a []))
        ∧ (e.isPort = true → e.kind = .scan → Completes .doorOpening s (a [e.tag]))
        ∧ (e.isPort = true → e.kind ≠ .scan → e.state = .running → Completes .doorOpening s (tell (a [e.tag])))
        ∧ (e.isPort = true → e.kind ≠ .scan → e.state = .awaitingConfirm →
          Completes .doorOpening s
            ((a [e.tag]).endHandOff.sentHome j e (.interrupted .portDisturbed) .portDisturbed none))
    (s.port.state = .released ∨ s.port.state = .closed →
      disturbs (opened { s.port with state := .opened } fun _ => .doorOpened s.port.state) id)
    ∧ (s.port.state = .secured ∨ s.port.state = .auditPending →
      disturbs
        (opened ⟨.opened, false, .noMark⟩ (.doorForced s.port.state (s.port.mark == .running))) tell)
    ∧ (s.port.state = .opened →
      Completes .doorOpening s { s with pins := { s.pins with doorOpen := true } }
      ∧ (s.params.autoRelock = true →
        Completes .doorClosing s (moved ⟨.auditPending, true, .pending⟩ false))
      ∧ (s.params.autoRelock = false →
        Completes .doorClosing s
          ((moved { s.port with state := .closed } false).askAttention .doorClosed)))

/-- EMERGENCY_STOP_ASSERTED (R158, R159, R16, R98, R137): recorded only, or the stop: the job, whatever its stage, is
halted, the place of a PICK, a PLACE or a RETRACT becomes UNKNOWN, the gripper is set from its sensor, and the entry
ends STOPPED, a SCAN with its counts.  The order of the effects is log entry 26's (DEDUCED).  When a reload is awaited
(R163) stands first. -/
def Obligations.EmergencyStop : Prop :=
  (∀ s : State, s.awaitsReload = true ↔ ∃ w, s.link.resetWait = some w ∧ w.reloaded = false)
  ∧ ∀ (s : State) (x : Sense), s.powered = true →
    let a : State := { s.sample x with ctl := { s.ctl with stopLine := true } }
    let halted : State := a.halted .stopped .stopLine none
    (s.ctl.mode = .stopped ∨ s.ctl.mode = .faulted ∨ s.awaitsReload = true →
      Completes (.emergencyStopAsserted x) s a)
    ∧ (s.ctl.mode ≠ .stopped → s.ctl.mode ≠ .faulted → s.awaitsReload = false →
      (s.running? = none → Completes (.emergencyStopAsserted x) s (halted.unsettled none))
      ∧ ∀ e j, s.seq.job = some j → JobOf s j e →
        let place : Option Loc := if j.onReturn.isSome then e.source else e.dest
        let disturbed : Option Loc :=
          match j.stage with
          | some .pick => e.source
          | some (.retract .pickFault) => e.source
          | some (.retract .pickNone) => e.source
          | some .place => place
          | some (.retract .placed) => place
          | some (.retract .placeFault) => place
          | _ => none
        Completes (.emergencyStopAsserted x) s
          (State.entryDone (State.endHandOff (halted.unsettled disturbed)) e.tag .stopped
            (j.audit.map Audit.cut)))

/-- REPEAT_TIMER_EXPIRY (R142): every queued notice is handed to the link again with its transmit count raised, up to
255, and the timer is restarted; nothing else changes. -/
def Obligations.RepeatRound : Prop :=
  ∀ s : State, s.powered = true → s.notices.repeatTimer.isSome = true → s.notices.queue ≠ [] →
    (s.notices.queue.map (·.number)).Nodup → ∃ t, exec .repeatTimerExpiry s = .next t
      ∧ t.notices =
          { s.notices with
            queue := s.notices.queue.map fun m => { m with count := min (m.count + 1) 255 },
            repeatTimer := some s.params.repeatInterval }
      ∧ (∀ m ∈ t.notices.queue, m ∈ t.link.noticeFrames ∨ t.link.sending = some (.notice m))
      ∧ t = { s with notices := t.notices, link := t.link }
      ∧ (s.link.sending ≠ none → t.link = { s.link with noticeFrames := t.link.noticeFrames })

/-! ### Invariants -/

/-- Every step keeps the port's lock and audit mark as R115 has them. -/
def Obligations.PortOkKept : Prop := ∀ s t : State, PortOk s → step s = .next t → PortOk t

/-- Every step keeps each bay's record in order and its location's occupancy as its state has it (R8, R100). -/
def Obligations.BaysOkKept : Prop := ∀ s t : State, BaysOk s → step s = .next t → BaysOk t

/-- Every step keeps labels in OCCUPIED records only, and the duplicate flags as R11 has them (R7, R11). -/
def Obligations.LabelsOkKept : Prop := ∀ s t : State, LabelsOk s → step s = .next t → LabelsOk t

/-- Every step keeps the notice queue an unbroken run of at most 24 numbers, with nothing held back while a place is
free, and its repeat timer as R142 has it (R140, R142, R145, R147). -/
def Obligations.NoticesOkKept : Prop := ∀ s t : State, NoticesOk s → step s = .next t → NoticesOk t

/-- Every step keeps at most 12 live entries, no two with one tag (R39, R42). -/
def Obligations.QueueOkKept : Prop := ∀ s t : State, QueueOk s → step s = .next t → QueueOk t

/-- Every step keeps the newest bank from being the target of a commit, and the pending-reply mark set exactly while a
deferred reply waits on a commit that is in flight or pending (R35, R37, R170). -/
def Obligations.StoreOkKept : Prop := ∀ s t : State, StoreOk s → step s = .next t → StoreOk t

/-- Every step keeps the mechanism still in STOPPED, in FAULTED and while RESET FULL waits for its reload, and the
stage timer running exactly while an order is outstanding (R65, R67, R87, R161, R163). -/
def Obligations.MechanismOkKept : Prop := ∀ s t : State, MechanismOk s → step s = .next t → MechanismOk t

/-- The reset state has every one of these invariants. -/
def Obligations.InvariantsHoldAtReset : Prop :=
  PortOk State.reset ∧ BaysOk State.reset ∧ LabelsOk State.reset ∧ NoticesOk State.reset
    ∧ QueueOk State.reset ∧ StoreOk State.reset ∧ MechanismOk State.reset
end

