-- ==== Sys2Proof/Laws/State.lean ====
section
/-! SUPPORT. What each plain update of the state leaves of each field: the field itself, or what the update
puts there.  A proof cites these and unfolds no record update. -/

namespace Sys2Proof.Machine

variable (s : State)

/-! ### sample -/

@[simp] theorem State.sample_powered (x : Sense) : (s.sample x).powered = s.powered := rfl
@[simp] theorem State.sample_straps (x : Sense) : (s.sample x).straps = s.straps := rfl
@[simp] theorem State.sample_pins (x : Sense) : (s.sample x).pins = samplePins s.pins x := rfl
@[simp] theorem State.sample_link (x : Sense) : (s.sample x).link = s.link := rfl
@[simp] theorem State.sample_queue (x : Sense) : (s.sample x).queue = s.queue := rfl
@[simp] theorem State.sample_inv (x : Sense) : (s.sample x).inv = s.inv := rfl
@[simp] theorem State.sample_map (x : Sense) : (s.sample x).map = s.map := rfl
@[simp] theorem State.sample_store (x : Sense) : (s.sample x).store = s.store := rfl
@[simp] theorem State.sample_params (x : Sense) : (s.sample x).params = s.params := rfl
@[simp] theorem State.sample_seq (x : Sense) : (s.sample x).seq = s.seq := rfl
@[simp] theorem State.sample_mech (x : Sense) : (s.sample x).mech = s.mech := rfl
@[simp] theorem State.sample_bays (x : Sense) : (s.sample x).bays = s.bays := rfl
@[simp] theorem State.sample_port (x : Sense) : (s.sample x).port = s.port := rfl
@[simp] theorem State.sample_notices (x : Sense) : (s.sample x).notices = s.notices := rfl
@[simp] theorem State.sample_ctl (x : Sense) : (s.sample x).ctl = s.ctl := rfl
@[simp] theorem State.sample_freeNext (x : Sense) : (s.sample x).freeNext = s.freeNext := rfl
@[simp] theorem State.sample_pending (x : Sense) : (s.sample x).pending = s.pending := rfl

/-! ### lines -/

@[simp] theorem State.lines_powered (i : Fin 4) (f : DrivePins → DrivePins) :
    (s.lines i f).powered = s.powered := rfl
@[simp] theorem State.lines_straps (i : Fin 4) (f : DrivePins → DrivePins) :
    (s.lines i f).straps = s.straps := rfl
@[simp] theorem State.lines_link (i : Fin 4) (f : DrivePins → DrivePins) : (s.lines i f).link = s.link := rfl
@[simp] theorem State.lines_queue (i : Fin 4) (f : DrivePins → DrivePins) :
    (s.lines i f).queue = s.queue := rfl
@[simp] theorem State.lines_inv (i : Fin 4) (f : DrivePins → DrivePins) : (s.lines i f).inv = s.inv := rfl
@[simp] theorem State.lines_map (i : Fin 4) (f : DrivePins → DrivePins) : (s.lines i f).map = s.map := rfl
@[simp] theorem State.lines_store (i : Fin 4) (f : DrivePins → DrivePins) :
    (s.lines i f).store = s.store := rfl
@[simp] theorem State.lines_params (i : Fin 4) (f : DrivePins → DrivePins) :
    (s.lines i f).params = s.params := rfl
@[simp] theorem State.lines_seq (i : Fin 4) (f : DrivePins → DrivePins) : (s.lines i f).seq = s.seq := rfl
@[simp] theorem State.lines_mech (i : Fin 4) (f : DrivePins → DrivePins) : (s.lines i f).mech = s.mech := rfl
@[simp] theorem State.lines_bays (i : Fin 4) (f : DrivePins → DrivePins) : (s.lines i f).bays = s.bays := rfl
@[simp] theorem State.lines_port (i : Fin 4) (f : DrivePins → DrivePins) : (s.lines i f).port = s.port := rfl
@[simp] theorem State.lines_notices (i : Fin 4) (f : DrivePins → DrivePins) :
    (s.lines i f).notices = s.notices := rfl
@[simp] theorem State.lines_ctl (i : Fin 4) (f : DrivePins → DrivePins) : (s.lines i f).ctl = s.ctl := rfl
@[simp] theorem State.lines_freeNext (i : Fin 4) (f : DrivePins → DrivePins) :
    (s.lines i f).freeNext = s.freeNext := rfl
@[simp] theorem State.lines_pending (i : Fin 4) (f : DrivePins → DrivePins) :
    (s.lines i f).pending = s.pending := rfl

/-! ### modBay -/

@[simp] theorem State.modBay_powered (n : Nat) (f : Bay → Bay) : (s.modBay n f).powered = s.powered := rfl
@[simp] theorem State.modBay_straps (n : Nat) (f : Bay → Bay) : (s.modBay n f).straps = s.straps := rfl
@[simp] theorem State.modBay_pins (n : Nat) (f : Bay → Bay) : (s.modBay n f).pins = s.pins := rfl
@[simp] theorem State.modBay_link (n : Nat) (f : Bay → Bay) : (s.modBay n f).link = s.link := rfl
@[simp] theorem State.modBay_queue (n : Nat) (f : Bay → Bay) : (s.modBay n f).queue = s.queue := rfl
@[simp] theorem State.modBay_inv (n : Nat) (f : Bay → Bay) : (s.modBay n f).inv = s.inv := rfl
@[simp] theorem State.modBay_map (n : Nat) (f : Bay → Bay) : (s.modBay n f).map = s.map := rfl
@[simp] theorem State.modBay_store (n : Nat) (f : Bay → Bay) : (s.modBay n f).store = s.store := rfl
@[simp] theorem State.modBay_params (n : Nat) (f : Bay → Bay) : (s.modBay n f).params = s.params := rfl
@[simp] theorem State.modBay_seq (n : Nat) (f : Bay → Bay) : (s.modBay n f).seq = s.seq := rfl
@[simp] theorem State.modBay_mech (n : Nat) (f : Bay → Bay) : (s.modBay n f).mech = s.mech := rfl
@[simp] theorem State.modBay_bays (n : Nat) (f : Bay → Bay) : (s.modBay n f).bays = s.bays.modify n f := rfl
@[simp] theorem State.modBay_port (n : Nat) (f : Bay → Bay) : (s.modBay n f).port = s.port := rfl
@[simp] theorem State.modBay_notices (n : Nat) (f : Bay → Bay) : (s.modBay n f).notices = s.notices := rfl
@[simp] theorem State.modBay_ctl (n : Nat) (f : Bay → Bay) : (s.modBay n f).ctl = s.ctl := rfl
@[simp] theorem State.modBay_freeNext (n : Nat) (f : Bay → Bay) : (s.modBay n f).freeNext = s.freeNext := rfl
@[simp] theorem State.modBay_pending (n : Nat) (f : Bay → Bay) : (s.modBay n f).pending = s.pending := rfl

/-! ### modEntry -/

@[simp] theorem State.modEntry_powered (t : Tag) (f : Entry → Entry) :
    (s.modEntry t f).powered = s.powered := rfl
@[simp] theorem State.modEntry_straps (t : Tag) (f : Entry → Entry) :
    (s.modEntry t f).straps = s.straps := rfl
@[simp] theorem State.modEntry_pins (t : Tag) (f : Entry → Entry) : (s.modEntry t f).pins = s.pins := rfl
@[simp] theorem State.modEntry_link (t : Tag) (f : Entry → Entry) : (s.modEntry t f).link = s.link := rfl
@[simp] theorem State.modEntry_inv (t : Tag) (f : Entry → Entry) : (s.modEntry t f).inv = s.inv := rfl
@[simp] theorem State.modEntry_map (t : Tag) (f : Entry → Entry) : (s.modEntry t f).map = s.map := rfl
@[simp] theorem State.modEntry_store (t : Tag) (f : Entry → Entry) : (s.modEntry t f).store = s.store := rfl
@[simp] theorem State.modEntry_params (t : Tag) (f : Entry → Entry) :
    (s.modEntry t f).params = s.params := rfl
@[simp] theorem State.modEntry_seq (t : Tag) (f : Entry → Entry) : (s.modEntry t f).seq = s.seq := rfl
@[simp] theorem State.modEntry_mech (t : Tag) (f : Entry → Entry) : (s.modEntry t f).mech = s.mech := rfl
@[simp] theorem State.modEntry_bays (t : Tag) (f : Entry → Entry) : (s.modEntry t f).bays = s.bays := rfl
@[simp] theorem State.modEntry_port (t : Tag) (f : Entry → Entry) : (s.modEntry t f).port = s.port := rfl
@[simp] theorem State.modEntry_notices (t : Tag) (f : Entry → Entry) :
    (s.modEntry t f).notices = s.notices := rfl
@[simp] theorem State.modEntry_ctl (t : Tag) (f : Entry → Entry) : (s.modEntry t f).ctl = s.ctl := rfl
@[simp] theorem State.modEntry_freeNext (t : Tag) (f : Entry → Entry) :
    (s.modEntry t f).freeNext = s.freeNext := rfl
@[simp] theorem State.modEntry_pending (t : Tag) (f : Entry → Entry) :
    (s.modEntry t f).pending = s.pending := rfl

/-! ### modJob -/

@[simp] theorem State.modJob_powered (f : Job → Job) : (s.modJob f).powered = s.powered := rfl
@[simp] theorem State.modJob_straps (f : Job → Job) : (s.modJob f).straps = s.straps := rfl
@[simp] theorem State.modJob_pins (f : Job → Job) : (s.modJob f).pins = s.pins := rfl
@[simp] theorem State.modJob_link (f : Job → Job) : (s.modJob f).link = s.link := rfl
@[simp] theorem State.modJob_queue (f : Job → Job) : (s.modJob f).queue = s.queue := rfl
@[simp] theorem State.modJob_inv (f : Job → Job) : (s.modJob f).inv = s.inv := rfl
@[simp] theorem State.modJob_map (f : Job → Job) : (s.modJob f).map = s.map := rfl
@[simp] theorem State.modJob_store (f : Job → Job) : (s.modJob f).store = s.store := rfl
@[simp] theorem State.modJob_params (f : Job → Job) : (s.modJob f).params = s.params := rfl
@[simp] theorem State.modJob_mech (f : Job → Job) : (s.modJob f).mech = s.mech := rfl
@[simp] theorem State.modJob_bays (f : Job → Job) : (s.modJob f).bays = s.bays := rfl
@[simp] theorem State.modJob_port (f : Job → Job) : (s.modJob f).port = s.port := rfl
@[simp] theorem State.modJob_notices (f : Job → Job) : (s.modJob f).notices = s.notices := rfl
@[simp] theorem State.modJob_ctl (f : Job → Job) : (s.modJob f).ctl = s.ctl := rfl
@[simp] theorem State.modJob_freeNext (f : Job → Job) : (s.modJob f).freeNext = s.freeNext := rfl
@[simp] theorem State.modJob_pending (f : Job → Job) : (s.modJob f).pending = s.pending := rfl

/-! ### sendOrder -/

@[simp] theorem State.sendOrder_powered (k : OrderKind) (x : Option Loc) :
    (s.sendOrder k x).powered = s.powered := rfl
@[simp] theorem State.sendOrder_straps (k : OrderKind) (x : Option Loc) :
    (s.sendOrder k x).straps = s.straps := rfl
@[simp] theorem State.sendOrder_pins (k : OrderKind) (x : Option Loc) : (s.sendOrder k x).pins = s.pins := rfl
@[simp] theorem State.sendOrder_link (k : OrderKind) (x : Option Loc) : (s.sendOrder k x).link = s.link := rfl
@[simp] theorem State.sendOrder_queue (k : OrderKind) (x : Option Loc) :
    (s.sendOrder k x).queue = s.queue := rfl
@[simp] theorem State.sendOrder_inv (k : OrderKind) (x : Option Loc) : (s.sendOrder k x).inv = s.inv := rfl
@[simp] theorem State.sendOrder_map (k : OrderKind) (x : Option Loc) : (s.sendOrder k x).map = s.map := rfl
@[simp] theorem State.sendOrder_store (k : OrderKind) (x : Option Loc) :
    (s.sendOrder k x).store = s.store := rfl
@[simp] theorem State.sendOrder_params (k : OrderKind) (x : Option Loc) :
    (s.sendOrder k x).params = s.params := rfl
@[simp] theorem State.sendOrder_seq (k : OrderKind) (x : Option Loc) : (s.sendOrder k x).seq = s.seq := rfl
@[simp] theorem State.sendOrder_bays (k : OrderKind) (x : Option Loc) : (s.sendOrder k x).bays = s.bays := rfl
@[simp] theorem State.sendOrder_port (k : OrderKind) (x : Option Loc) : (s.sendOrder k x).port = s.port := rfl
@[simp] theorem State.sendOrder_notices (k : OrderKind) (x : Option Loc) :
    (s.sendOrder k x).notices = s.notices := rfl
@[simp] theorem State.sendOrder_ctl (k : OrderKind) (x : Option Loc) : (s.sendOrder k x).ctl = s.ctl := rfl
@[simp] theorem State.sendOrder_freeNext (k : OrderKind) (x : Option Loc) :
    (s.sendOrder k x).freeNext = s.freeNext := rfl
@[simp] theorem State.sendOrder_pending (k : OrderKind) (x : Option Loc) :
    (s.sendOrder k x).pending = s.pending := rfl

/-! ### setPort -/

@[simp] theorem State.setPort_powered (p : Port) : (s.setPort p).powered = s.powered := rfl
@[simp] theorem State.setPort_straps (p : Port) : (s.setPort p).straps = s.straps := rfl
@[simp] theorem State.setPort_pins (p : Port) : (s.setPort p).pins = s.pins := rfl
@[simp] theorem State.setPort_link (p : Port) : (s.setPort p).link = s.link := rfl
@[simp] theorem State.setPort_inv (p : Port) : (s.setPort p).inv = s.inv := rfl
@[simp] theorem State.setPort_map (p : Port) : (s.setPort p).map = s.map := rfl
@[simp] theorem State.setPort_store (p : Port) : (s.setPort p).store = s.store := rfl
@[simp] theorem State.setPort_params (p : Port) : (s.setPort p).params = s.params := rfl
@[simp] theorem State.setPort_seq (p : Port) : (s.setPort p).seq = s.seq := rfl
@[simp] theorem State.setPort_mech (p : Port) : (s.setPort p).mech = s.mech := rfl
@[simp] theorem State.setPort_bays (p : Port) : (s.setPort p).bays = s.bays := rfl
@[simp] theorem State.setPort_port (p : Port) : (s.setPort p).port = p := rfl
@[simp] theorem State.setPort_notices (p : Port) : (s.setPort p).notices = s.notices := rfl
@[simp] theorem State.setPort_ctl (p : Port) : (s.setPort p).ctl = s.ctl := rfl
@[simp] theorem State.setPort_freeNext (p : Port) : (s.setPort p).freeNext = s.freeNext := rfl
@[simp] theorem State.setPort_pending (p : Port) : (s.setPort p).pending = s.pending := rfl

/-! ### reply -/

@[simp] theorem State.reply_powered (q k : Byte) (st : Status) (fs : List Byte) (c : Bool) :
    (s.reply q k st fs c).powered = s.powered := rfl
@[simp] theorem State.reply_straps (q k : Byte) (st : Status) (fs : List Byte) (c : Bool) :
    (s.reply q k st fs c).straps = s.straps := rfl
@[simp] theorem State.reply_pins (q k : Byte) (st : Status) (fs : List Byte) (c : Bool) :
    (s.reply q k st fs c).pins = s.pins := rfl
@[simp] theorem State.reply_queue (q k : Byte) (st : Status) (fs : List Byte) (c : Bool) :
    (s.reply q k st fs c).queue = s.queue := rfl
@[simp] theorem State.reply_inv (q k : Byte) (st : Status) (fs : List Byte) (c : Bool) :
    (s.reply q k st fs c).inv = s.inv := rfl
@[simp] theorem State.reply_map (q k : Byte) (st : Status) (fs : List Byte) (c : Bool) :
    (s.reply q k st fs c).map = s.map := rfl
@[simp] theorem State.reply_store (q k : Byte) (st : Status) (fs : List Byte) (c : Bool) :
    (s.reply q k st fs c).store = s.store := rfl
@[simp] theorem State.reply_params (q k : Byte) (st : Status) (fs : List Byte) (c : Bool) :
    (s.reply q k st fs c).params = s.params := rfl
@[simp] theorem State.reply_seq (q k : Byte) (st : Status) (fs : List Byte) (c : Bool) :
    (s.reply q k st fs c).seq = s.seq := rfl
@[simp] theorem State.reply_mech (q k : Byte) (st : Status) (fs : List Byte) (c : Bool) :
    (s.reply q k st fs c).mech = s.mech := rfl
@[simp] theorem State.reply_bays (q k : Byte) (st : Status) (fs : List Byte) (c : Bool) :
    (s.reply q k st fs c).bays = s.bays := rfl
@[simp] theorem State.reply_port (q k : Byte) (st : Status) (fs : List Byte) (c : Bool) :
    (s.reply q k st fs c).port = s.port := rfl
@[simp] theorem State.reply_notices (q k : Byte) (st : Status) (fs : List Byte) (c : Bool) :
    (s.reply q k st fs c).notices = s.notices := rfl
@[simp] theorem State.reply_ctl (q k : Byte) (st : Status) (fs : List Byte) (c : Bool) :
    (s.reply q k st fs c).ctl = s.ctl := rfl
@[simp] theorem State.reply_freeNext (q k : Byte) (st : Status) (fs : List Byte) (c : Bool) :
    (s.reply q k st fs c).freeNext = s.freeNext := rfl
@[simp] theorem State.reply_pending (q k : Byte) (st : Status) (fs : List Byte) (c : Bool) :
    (s.reply q k st fs c).pending = s.pending := rfl

/-! ### receive -/

@[simp] theorem State.receive_powered (r : Receiver) : (s.receive r).powered = s.powered := rfl
@[simp] theorem State.receive_straps (r : Receiver) : (s.receive r).straps = s.straps := rfl
@[simp] theorem State.receive_pins (r : Receiver) : (s.receive r).pins = s.pins := rfl
@[simp] theorem State.receive_link (r : Receiver) : (s.receive r).link = { s.link with receiver := r } := rfl
@[simp] theorem State.receive_queue (r : Receiver) : (s.receive r).queue = s.queue := rfl
@[simp] theorem State.receive_inv (r : Receiver) : (s.receive r).inv = s.inv := rfl
@[simp] theorem State.receive_map (r : Receiver) : (s.receive r).map = s.map := rfl
@[simp] theorem State.receive_store (r : Receiver) : (s.receive r).store = s.store := rfl
@[simp] theorem State.receive_params (r : Receiver) : (s.receive r).params = s.params := rfl
@[simp] theorem State.receive_seq (r : Receiver) : (s.receive r).seq = s.seq := rfl
@[simp] theorem State.receive_mech (r : Receiver) : (s.receive r).mech = s.mech := rfl
@[simp] theorem State.receive_bays (r : Receiver) : (s.receive r).bays = s.bays := rfl
@[simp] theorem State.receive_port (r : Receiver) : (s.receive r).port = s.port := rfl
@[simp] theorem State.receive_notices (r : Receiver) : (s.receive r).notices = s.notices := rfl
@[simp] theorem State.receive_ctl (r : Receiver) : (s.receive r).ctl = s.ctl := rfl
@[simp] theorem State.receive_freeNext (r : Receiver) : (s.receive r).freeNext = s.freeNext := rfl
@[simp] theorem State.receive_pending (r : Receiver) : (s.receive r).pending = s.pending := rfl

/-! ### deferReply -/

@[simp] theorem State.deferReply_powered (q k : Byte) : (s.deferReply q k).powered = s.powered := rfl
@[simp] theorem State.deferReply_straps (q k : Byte) : (s.deferReply q k).straps = s.straps := rfl
@[simp] theorem State.deferReply_pins (q k : Byte) : (s.deferReply q k).pins = s.pins := rfl
@[simp] theorem State.deferReply_link (q k : Byte) : (s.deferReply q k).link = s.link := rfl
@[simp] theorem State.deferReply_queue (q k : Byte) : (s.deferReply q k).queue = s.queue := rfl
@[simp] theorem State.deferReply_inv (q k : Byte) : (s.deferReply q k).inv = s.inv := rfl
@[simp] theorem State.deferReply_map (q k : Byte) : (s.deferReply q k).map = s.map := rfl
@[simp] theorem State.deferReply_params (q k : Byte) : (s.deferReply q k).params = s.params := rfl
@[simp] theorem State.deferReply_seq (q k : Byte) : (s.deferReply q k).seq = s.seq := rfl
@[simp] theorem State.deferReply_mech (q k : Byte) : (s.deferReply q k).mech = s.mech := rfl
@[simp] theorem State.deferReply_bays (q k : Byte) : (s.deferReply q k).bays = s.bays := rfl
@[simp] theorem State.deferReply_port (q k : Byte) : (s.deferReply q k).port = s.port := rfl
@[simp] theorem State.deferReply_notices (q k : Byte) : (s.deferReply q k).notices = s.notices := rfl
@[simp] theorem State.deferReply_ctl (q k : Byte) : (s.deferReply q k).ctl = s.ctl := rfl
@[simp] theorem State.deferReply_freeNext (q k : Byte) : (s.deferReply q k).freeNext = s.freeNext := rfl
@[simp] theorem State.deferReply_pending (q k : Byte) : (s.deferReply q k).pending = s.pending := rfl

/-! ### cancelPark -/

@[simp] theorem State.cancelPark_powered : (s.cancelPark).powered = s.powered := rfl
@[simp] theorem State.cancelPark_straps : (s.cancelPark).straps = s.straps := rfl
@[simp] theorem State.cancelPark_pins : (s.cancelPark).pins = s.pins := rfl
@[simp] theorem State.cancelPark_link : (s.cancelPark).link = s.link := rfl
@[simp] theorem State.cancelPark_queue : (s.cancelPark).queue = s.queue := rfl
@[simp] theorem State.cancelPark_inv : (s.cancelPark).inv = s.inv := rfl
@[simp] theorem State.cancelPark_map : (s.cancelPark).map = s.map := rfl
@[simp] theorem State.cancelPark_store : (s.cancelPark).store = s.store := rfl
@[simp] theorem State.cancelPark_params : (s.cancelPark).params = s.params := rfl
@[simp] theorem State.cancelPark_seq : (s.cancelPark).seq = { s.seq with parkTimer := none } := rfl
@[simp] theorem State.cancelPark_mech : (s.cancelPark).mech = s.mech := rfl
@[simp] theorem State.cancelPark_bays : (s.cancelPark).bays = s.bays := rfl
@[simp] theorem State.cancelPark_port : (s.cancelPark).port = s.port := rfl
@[simp] theorem State.cancelPark_notices : (s.cancelPark).notices = s.notices := rfl
@[simp] theorem State.cancelPark_ctl : (s.cancelPark).ctl = s.ctl := rfl
@[simp] theorem State.cancelPark_freeNext : (s.cancelPark).freeNext = s.freeNext := rfl
@[simp] theorem State.cancelPark_pending : (s.cancelPark).pending = s.pending := rfl

/-! ### endHandOff -/

@[simp] theorem State.endHandOff_powered : (s.endHandOff).powered = s.powered := rfl
@[simp] theorem State.endHandOff_straps : (s.endHandOff).straps = s.straps := rfl
@[simp] theorem State.endHandOff_pins : (s.endHandOff).pins = s.pins := rfl
@[simp] theorem State.endHandOff_link : (s.endHandOff).link = s.link := rfl
@[simp] theorem State.endHandOff_queue : (s.endHandOff).queue = s.queue := rfl
@[simp] theorem State.endHandOff_inv : (s.endHandOff).inv = s.inv := rfl
@[simp] theorem State.endHandOff_map : (s.endHandOff).map = s.map := rfl
@[simp] theorem State.endHandOff_store : (s.endHandOff).store = s.store := rfl
@[simp] theorem State.endHandOff_params : (s.endHandOff).params = s.params := rfl
@[simp] theorem State.endHandOff_seq : (s.endHandOff).seq = { s.seq with confirmTimer := none } := rfl
@[simp] theorem State.endHandOff_mech : (s.endHandOff).mech = s.mech := rfl
@[simp] theorem State.endHandOff_bays : (s.endHandOff).bays = s.bays := rfl
@[simp] theorem State.endHandOff_port : (s.endHandOff).port = s.port := rfl
@[simp] theorem State.endHandOff_ctl : (s.endHandOff).ctl = s.ctl := rfl
@[simp] theorem State.endHandOff_freeNext : (s.endHandOff).freeNext = s.freeNext := rfl
@[simp] theorem State.endHandOff_pending : (s.endHandOff).pending = s.pending := rfl

/-! ### accepted -/

@[simp] theorem State.accepted_powered (q : Byte) : (s.accepted q).powered = s.powered := rfl
@[simp] theorem State.accepted_straps (q : Byte) : (s.accepted q).straps = s.straps := rfl
@[simp] theorem State.accepted_pins (q : Byte) : (s.accepted q).pins = s.pins := rfl
@[simp] theorem State.accepted_queue (q : Byte) : (s.accepted q).queue = s.queue := rfl
@[simp] theorem State.accepted_inv (q : Byte) : (s.accepted q).inv = s.inv := rfl
@[simp] theorem State.accepted_map (q : Byte) : (s.accepted q).map = s.map := rfl
@[simp] theorem State.accepted_store (q : Byte) : (s.accepted q).store = s.store := rfl
@[simp] theorem State.accepted_params (q : Byte) : (s.accepted q).params = s.params := rfl
@[simp] theorem State.accepted_seq (q : Byte) : (s.accepted q).seq = s.seq := rfl
@[simp] theorem State.accepted_mech (q : Byte) : (s.accepted q).mech = s.mech := rfl
@[simp] theorem State.accepted_bays (q : Byte) : (s.accepted q).bays = s.bays := rfl
@[simp] theorem State.accepted_port (q : Byte) : (s.accepted q).port = s.port := rfl
@[simp] theorem State.accepted_notices (q : Byte) : (s.accepted q).notices = s.notices := rfl
@[simp] theorem State.accepted_ctl (q : Byte) : (s.accepted q).ctl = s.ctl := rfl
@[simp] theorem State.accepted_freeNext (q : Byte) : (s.accepted q).freeNext = s.freeNext := rfl
@[simp] theorem State.accepted_pending (q : Byte) : (s.accepted q).pending = s.pending := rfl

/-! ### taken -/

@[simp] theorem State.taken_powered : (s.taken).powered = s.powered := rfl
@[simp] theorem State.taken_straps : (s.taken).straps = s.straps := rfl
@[simp] theorem State.taken_pins : (s.taken).pins = s.pins := rfl
@[simp] theorem State.taken_link : (s.taken).link = s.link := rfl
@[simp] theorem State.taken_queue : (s.taken).queue = s.queue := rfl
@[simp] theorem State.taken_inv : (s.taken).inv = s.inv := rfl
@[simp] theorem State.taken_map : (s.taken).map = s.map := rfl
@[simp] theorem State.taken_store : (s.taken).store = s.store := rfl
@[simp] theorem State.taken_params : (s.taken).params = s.params := rfl
@[simp] theorem State.taken_seq : (s.taken).seq = s.seq := rfl
@[simp] theorem State.taken_mech : (s.taken).mech = s.mech.clear := rfl
@[simp] theorem State.taken_bays : (s.taken).bays = s.bays := rfl
@[simp] theorem State.taken_port : (s.taken).port = s.port := rfl
@[simp] theorem State.taken_notices : (s.taken).notices = s.notices := rfl
@[simp] theorem State.taken_ctl : (s.taken).ctl = s.ctl := rfl
@[simp] theorem State.taken_freeNext : (s.taken).freeNext = s.freeNext := rfl
@[simp] theorem State.taken_pending : (s.taken).pending = s.pending := rfl

/-! ### ordered -/

@[simp] theorem State.ordered_powered (j : Job) (p : Picker) (k : OrderKind) (x : Option Loc) :
    (s.ordered j p k x).powered = s.powered := rfl
@[simp] theorem State.ordered_straps (j : Job) (p : Picker) (k : OrderKind) (x : Option Loc) :
    (s.ordered j p k x).straps = s.straps := rfl
@[simp] theorem State.ordered_pins (j : Job) (p : Picker) (k : OrderKind) (x : Option Loc) :
    (s.ordered j p k x).pins = s.pins := rfl
@[simp] theorem State.ordered_link (j : Job) (p : Picker) (k : OrderKind) (x : Option Loc) :
    (s.ordered j p k x).link = s.link := rfl
@[simp] theorem State.ordered_queue (j : Job) (p : Picker) (k : OrderKind) (x : Option Loc) :
    (s.ordered j p k x).queue = s.queue := rfl
@[simp] theorem State.ordered_inv (j : Job) (p : Picker) (k : OrderKind) (x : Option Loc) :
    (s.ordered j p k x).inv = s.inv := rfl
@[simp] theorem State.ordered_map (j : Job) (p : Picker) (k : OrderKind) (x : Option Loc) :
    (s.ordered j p k x).map = s.map := rfl
@[simp] theorem State.ordered_store (j : Job) (p : Picker) (k : OrderKind) (x : Option Loc) :
    (s.ordered j p k x).store = s.store := rfl
@[simp] theorem State.ordered_params (j : Job) (p : Picker) (k : OrderKind) (x : Option Loc) :
    (s.ordered j p k x).params = s.params := rfl
@[simp] theorem State.ordered_seq (j : Job) (p : Picker) (k : OrderKind) (x : Option Loc) :
    (s.ordered j p k x).seq = { s.seq with job := some j, picker := p } := rfl
@[simp] theorem State.ordered_bays (j : Job) (p : Picker) (k : OrderKind) (x : Option Loc) :
    (s.ordered j p k x).bays = s.bays := rfl
@[simp] theorem State.ordered_port (j : Job) (p : Picker) (k : OrderKind) (x : Option Loc) :
    (s.ordered j p k x).port = s.port := rfl
@[simp] theorem State.ordered_notices (j : Job) (p : Picker) (k : OrderKind) (x : Option Loc) :
    (s.ordered j p k x).notices = s.notices := rfl
@[simp] theorem State.ordered_ctl (j : Job) (p : Picker) (k : OrderKind) (x : Option Loc) :
    (s.ordered j p k x).ctl = s.ctl := rfl
@[simp] theorem State.ordered_freeNext (j : Job) (p : Picker) (k : OrderKind) (x : Option Loc) :
    (s.ordered j p k x).freeNext = s.freeNext := rfl
@[simp] theorem State.ordered_pending (j : Job) (p : Picker) (k : OrderKind) (x : Option Loc) :
    (s.ordered j p k x).pending = s.pending := rfl

/-! ### withPending -/

@[simp] theorem State.withPending_powered (q : List Instr) : (s.withPending q).powered = s.powered := rfl
@[simp] theorem State.withPending_straps (q : List Instr) : (s.withPending q).straps = s.straps := rfl
@[simp] theorem State.withPending_pins (q : List Instr) : (s.withPending q).pins = s.pins := rfl
@[simp] theorem State.withPending_link (q : List Instr) : (s.withPending q).link = s.link := rfl
@[simp] theorem State.withPending_queue (q : List Instr) : (s.withPending q).queue = s.queue := rfl
@[simp] theorem State.withPending_inv (q : List Instr) : (s.withPending q).inv = s.inv := rfl
@[simp] theorem State.withPending_map (q : List Instr) : (s.withPending q).map = s.map := rfl
@[simp] theorem State.withPending_store (q : List Instr) : (s.withPending q).store = s.store := rfl
@[simp] theorem State.withPending_params (q : List Instr) : (s.withPending q).params = s.params := rfl
@[simp] theorem State.withPending_seq (q : List Instr) : (s.withPending q).seq = s.seq := rfl
@[simp] theorem State.withPending_mech (q : List Instr) : (s.withPending q).mech = s.mech := rfl
@[simp] theorem State.withPending_bays (q : List Instr) : (s.withPending q).bays = s.bays := rfl
@[simp] theorem State.withPending_port (q : List Instr) : (s.withPending q).port = s.port := rfl
@[simp] theorem State.withPending_notices (q : List Instr) : (s.withPending q).notices = s.notices := rfl
@[simp] theorem State.withPending_ctl (q : List Instr) : (s.withPending q).ctl = s.ctl := rfl
@[simp] theorem State.withPending_freeNext (q : List Instr) : (s.withPending q).freeNext = s.freeNext := rfl
@[simp] theorem State.withPending_pending (q : List Instr) : (s.withPending q).pending = q := rfl

end Sys2Proof.Machine
end

