-- ==== Sys2Proof/Laws/Ops.lean ====
section
/-! SUPPORT. One lemma for each shared operation that says everything it can change: a proof cites it and
does not unfold the operation. -/

namespace Sys2Proof.Machine

/-! ### Notices -/

/-- Entering a notice changes the notice queue, the frames that wait, an entry's notice mark, and the
confirm timer. -/
theorem State.enterNotice_frame (s : State) (b : NoticeBody) :
    ∃ n l q c, s.enterNotice b =
      { s with notices := n, link := l, queue := q, seq := { s.seq with confirmTimer := c } } := by
  cases b <;> exact ⟨_, _, _, _, rfl⟩

/-- Entering an attention or a summary changes the notice queue and the frames that wait. -/
theorem State.enterAttention_frame (s : State) (a : Attention) :
    ∃ n f, s.enterNotice (.attention a) =
      { s with notices := n, link := { s.link with noticeFrames := f } } := by
  unfold State.enterNotice Link.hand
  dsimp only
  split <;> exact ⟨_, _, rfl⟩

/-- Asking for a completion or verify notice changes what entering it changes, or the admission list. -/
theorem State.askNotice_frame (s : State) (b : NoticeBody) :
    ∃ n l q c, s.askNotice b =
      { s with notices := n, link := l, queue := q, seq := { s.seq with confirmTimer := c } } := by
  unfold State.askNotice
  split
  · exact s.enterNotice_frame b
  · exact ⟨_, _, _, _, rfl⟩

/-- Asking for an attention changes the notice queue and the frames that wait. -/
theorem State.askAttention_frame (s : State) (a : Attention) :
    ∃ n f, s.askAttention a = { s with notices := n, link := { s.link with noticeFrames := f } } := by
  unfold State.askAttention
  split
  · exact s.enterAttention_frame a
  · exact ⟨_, _, rfl⟩

/-! ### The inventory and the bays -/

/-- An inventory update leaves the records as the changes and the flags make them, and may ask for
DUPLICATE_LABEL. -/
theorem State.inventoryUpdate_frame (s : State) (f : Inventory → Inventory) :
    ∃ n w, s.inventoryUpdate f =
      { s with inv := (f s.inv).reflag, notices := n, link := { s.link with noticeFrames := w } } := by
  unfold State.inventoryUpdate
  dsimp only
  split
  · rename_i l x n _
    obtain ⟨a, b, h⟩ :=
      State.askAttention_frame { s with inv := (f s.inv).reflag } (.duplicateLabel l x n)
    exact ⟨a, b, h⟩
  · exact ⟨_, _, rfl⟩

/-- The label a bay keeps at RESET SOFT is its own or absent: its own where its state stays, and absent where it does
not, but for a bay in EJECTING derived LOADED, which R113 gives both ways (log entry 28). -/
theorem State.resetLabel_eq (s : State) (n : Nat) :
    s.resetLabel n =
      if s.derivedBay n = (s.bay n).state
          ∨ (Config.resetKeepsEjectingLabel ∧ (s.bay n).state = .ejecting ∧ s.derivedBay n = .loaded)
      then (s.inv.place (.bay n)).label else none := by
  unfold State.resetLabel State.derivedLabel
  split
  case isTrue h => simp only [h, and_self, or_true, if_true]
  case isFalse h => simp only [h, or_false]

/-- A bay monitor update enters the bay's state and makes one inventory update. -/
theorem State.bayUpdate_frame (s : State) (n : Nat) (st : BayState) (l : Option Label)
    (more : Inventory → Inventory) :
    ∃ a w, s.bayUpdate n st l more =
      { s with
        bays := s.bays.modify n (·.enter st), inv := (more (s.inv.put (.bay n) st.occ l)).reflag,
        notices := a, link := { s.link with noticeFrames := w } } :=
  State.inventoryUpdate_frame (s.modBay n (·.enter st)) _

/-- An inventory update leaves the sequencer. -/
theorem State.inventoryUpdate_seq (s : State) (f : Inventory → Inventory) :
    (s.inventoryUpdate f).seq = s.seq := by
  obtain ⟨n, w, h⟩ := s.inventoryUpdate_frame f
  rw [h]

/-- An inventory update leaves the entries. -/
theorem State.inventoryUpdate_queue (s : State) (f : Inventory → Inventory) :
    (s.inventoryUpdate f).queue = s.queue := by
  obtain ⟨n, w, h⟩ := s.inventoryUpdate_frame f
  rw [h]

/-- A bay monitor update leaves the sequencer, the entries and the parameters. -/
theorem State.bayUpdate_keeps (s : State) (n : Nat) (st : BayState) (l : Option Label)
    (more : Inventory → Inventory) :
    (s.bayUpdate n st l more).seq = s.seq ∧ (s.bayUpdate n st l more).queue = s.queue
      ∧ (s.bayUpdate n st l more).params = s.params := by
  obtain ⟨a, w, h⟩ := s.bayUpdate_frame n st l more
  rw [h]
  exact ⟨rfl, rfl, rfl⟩

/-! ### Entries -/

/-- An entry that reaches DONE changes its own record, its claims, its bay's wait, the job it holds, and the
notices. -/
theorem State.entryDone_frame (s : State) (t : Tag) (r : Result) (c : Option ScanCounts) :
    ∃ q i b n l sq, s.entryDone t r c =
      { s with queue := q, inv := i, bays := b, notices := n, link := l, seq := sq } := by
  unfold State.entryDone
  split
  · exact ⟨_, _, _, _, _, _, rfl⟩
  · dsimp only
    obtain ⟨n, l, q, k, h⟩ := State.askNotice_frame _ _
    rw [h]
    exact ⟨_, _, _, _, _, _, rfl⟩

/-- Entries that end together change what each of them changes. -/
theorem State.endAll_frame (ts : List Tag) (r : Result) :
    ∀ s : State, ∃ q i b n l sq, s.endAll ts r =
      { s with queue := q, inv := i, bays := b, notices := n, link := l, seq := sq } := by
  induction ts with
  | nil => exact fun s => ⟨_, _, _, _, _, _, rfl⟩
  | cons t ts ih =>
    intro s
    obtain ⟨q, i, b, n, l, sq, h⟩ := s.entryDone_frame t r none
    obtain ⟨q', i', b', n', l', sq', h'⟩ := ih (s.entryDone t r)
    refine ⟨q', i', b', n', l', sq', ?_⟩
    unfold State.endAll at h' ⊢
    rw [List.foldl_cons, h', h]

/-- The STOWs that end when HOLDING is left change what each of them changes. -/
theorem State.cancelStows_frame (s : State) :
    ∃ q i b n l sq, s.cancelStows =
      { s with queue := q, inv := i, bays := b, notices := n, link := l, seq := sq } :=
  State.endAll_frame _ _ s

/-! ### The mode -/

/-- A mode change writes the mode, may stop the park timer, and asks for MODE_CHANGED. -/
theorem State.setMode_frame (s : State) (m : LibMode) (c : ModeCause) (t : Option Tag) :
    ∃ p n f, s.setMode m c t =
      { s with
        ctl := { s.ctl with mode := m }, seq := { s.seq with parkTimer := p }, notices := n,
        link := { s.link with noticeFrames := f } } := by
  unfold State.setMode
  dsimp only
  obtain ⟨n, f, h⟩ := State.askAttention_frame
    { s with
      ctl := { s.ctl with mode := m },
      seq := if m = .stopped ∨ m = .initializing then { s.seq with parkTimer := none } else s.seq } _
  rw [h]
  split <;> exact ⟨_, _, _, rfl⟩

/-! ### The map and its store -/

/-- A request for a commit changes the map store alone. -/
theorem State.askCommit_frame (s : State) : ∃ st, s.askCommit = { s with store := st } := by
  unfold State.askCommit State.startCommit
  split <;> exact ⟨_, rfl⟩

/-- A retirement changes the map, the store and the notices. -/
theorem State.retire_frame (s : State) (p : Nat) (c : RetireCause) (t : Option Tag) :
    ∃ st n f, s.retire p c t =
      { s with
        map := s.map.retire s.nPhys p, store := st, notices := n,
        link := { s.link with noticeFrames := f } } := by
  unfold State.retire
  dsimp only
  split
  · obtain ⟨n1, f1, h1⟩ := State.askAttention_frame { s with map := s.map.retire s.nPhys p } _
    rw [h1]
    obtain ⟨n2, f2, h2⟩ := State.askAttention_frame _ _
    rw [h2]
    obtain ⟨st, h3⟩ := State.askCommit_frame _
    rw [h3]
    exact ⟨_, _, _, rfl⟩
  · obtain ⟨n1, f1, h1⟩ := State.askAttention_frame { s with map := s.map.retire s.nPhys p } _
    rw [h1]
    obtain ⟨st, h3⟩ := State.askCommit_frame _
    rw [h3]
    exact ⟨_, _, _, rfl⟩

/-- A failure report changes the map, the store and the notices. -/
theorem State.reportFailure_frame (s : State) (x : Option Loc) (t : Tag) :
    ∃ m st n f, s.reportFailure x t =
      { s with map := m, store := st, notices := n, link := { s.link with noticeFrames := f } } := by
  unfold State.reportFailure
  split
  · split
    · exact ⟨_, _, _, _, rfl⟩
    · dsimp only
      split
      · exact ⟨_, _, _, _, rfl⟩
      · split
        · obtain ⟨st, n, f, h⟩ := State.retire_frame _ _ _ _
          rw [h]
          exact ⟨_, _, _, _, rfl⟩
        · obtain ⟨n, f, h⟩ := State.askAttention_frame _ _
          rw [h]
          exact ⟨_, _, _, _, rfl⟩
  · exact ⟨_, _, _, _, rfl⟩

/-- A success report changes the map alone. -/
theorem State.reportSuccess_frame (s : State) (x : Option Loc) :
    ∃ m, s.reportSuccess x = { s with map := m } := by
  unfold State.reportSuccess
  split <;> exact ⟨_, rfl⟩

/-! ### Stages -/

/-- A stage that begins changes the job, the picker and the order. -/
theorem State.beginStage_frame (s : State) (st : Stage) :
    ∃ j p m, s.beginStage st = { s with seq := { s.seq with job := j, picker := p }, mech := m } := by
  unfold State.beginStage State.sendOrder
  split <;> exact ⟨_, _, _, rfl⟩

/-- An attempt that follows changes the job, the picker and the order. -/
theorem State.retryStage_frame (s : State) (st : Stage) :
    ∃ j p m, s.retryStage st = { s with seq := { s.seq with job := j, picker := p }, mech := m } := by
  unfold State.retryStage State.sendOrder
  split <;> exact ⟨_, _, _, rfl⟩

/-- A stage begun for a job leaves that job. -/
theorem State.beginStage_job (s : State) (st : Stage) :
    (s.beginStage st).seq.job.isSome = s.seq.job.isSome := by
  unfold State.beginStage
  split
  · rfl
  · simp [*]

/-- A halt leaves no job and no order, and returns a running audit to pending. -/
theorem State.haltJob_frame (s : State) :
    s.haltJob =
      { s with
        seq := ⟨none, .unhomed, none, none⟩, mech := s.mech.clear,
        port := { s.port with mark := s.port.mark.halted } } := rfl

/-! ### Replies and the transmitter -/

/-- The transmitter's choice changes the frames of the link alone. -/
theorem Link.startNext_frame (l : Link) :
    ∃ x r n, l.startNext = { l with sending := x, replies := r, noticeFrames := n } := by
  unfold Link.startNext
  split <;> exact ⟨_, _, _, rfl⟩

/-- The transmitter leaves a frame that is being sent. -/
theorem Link.startNext_sending (l : Link) (h : l.sending ≠ none) : l.startNext = l := by
  unfold Link.startNext
  split <;> simp_all

/-- The transmitter leaves the replies, or begins the oldest of them. -/
theorem Link.startNext_replies (l : Link) :
    l.startNext.replies = l.replies
      ∨ ∃ r, l.sending = none ∧ l.startNext.sending = some (.reply r)
          ∧ l.replies = r :: l.startNext.replies := by
  unfold Link.startNext
  split <;> simp_all

end Sys2Proof.Machine
end

