-- ==== Sys2Proof/Laws/Settle.lean ====
section
/-! SUPPORT. The end of an event: what the arbiter's choices may change, and that every event ends in a
state its own effect settles to. -/

namespace Sys2Proof.Machine

/-! ### What a choice may change -/

/-- What a choice may do to an entry: nothing to what it is, and to its state and result only where its tag
is one of `P`. -/
structure EntryMoved (P : Tag → Prop) (a b : Entry) : Prop where
  identity : b.identity = a.identity
  state : ¬ P a.tag → b.state = a.state ∧ b.result = a.result ∧ b.counts = a.counts ∧ b.held = a.held

/-- `v` is `u` but for what choices among the entries with tags `P` may change. -/
structure Moved (P : Tag → Prop) (u v : State) : Prop where
  powered : v.powered = u.powered
  straps : v.straps = u.straps
  pins : v.pins = u.pins
  map : v.map = u.map
  store : v.store = u.store
  params : v.params = u.params
  ctl : v.ctl = u.ctl
  freeNext : v.freeNext = u.freeNext
  pending : v.pending = u.pending
  portState : v.port.state = u.port.state
  lock : v.port.lock = u.port.lock
  mark : v.port.mark = u.port.mark ∨ (u.port.mark = .pending ∧ v.port.mark = .running)
  hold : v.queue.hold = u.queue.hold
  accepted : v.queue.accepted = u.queue.accepted
  entries : List.Forall₂ (EntryMoved P) u.queue.entries v.queue.entries
  contents : v.inv.contents = u.inv.contents
  bays : List.Forall₂ BaySettled u.bays v.bays
  noticeQueue : u.notices.queue <+: v.notices.queue
  admission : u.notices.admission <+: v.notices.admission
  summary : v.notices.summary = u.notices.summary
  confirmTimer : v.seq.confirmTimer = u.seq.confirmTimer
  link : ∃ f, v.link = { u.link with noticeFrames := f }

theorem EntryMoved.refl {P : Tag → Prop} (a : Entry) : EntryMoved P a a := ⟨rfl, fun _ => ⟨rfl, rfl, rfl, rfl⟩⟩

theorem Entry.tag_of_identity {a b : Entry} (h : b.identity = a.identity) : b.tag = a.tag :=
  congrArg Identity.tag h

theorem EntryMoved.trans {P : Tag → Prop} {a b c : Entry} (h : EntryMoved P a b) (k : EntryMoved P b c) :
    EntryMoved P a c := by
  refine ⟨k.identity.trans h.identity, fun hp => ?_⟩
  obtain ⟨h1, h2, h3, h4⟩ := h.state hp
  obtain ⟨k1, k2, k3, k4⟩ := k.state (by rwa [Entry.tag_of_identity h.identity])
  exact ⟨k1.trans h1, k2.trans h2, k3.trans h3, k4.trans h4⟩

theorem EntryMoved.mono {P Q : Tag → Prop} (pq : ∀ t, P t → Q t) {a b : Entry} (h : EntryMoved P a b) :
    EntryMoved Q a b := ⟨h.identity, fun hq => h.state fun hp => hq (pq _ hp)⟩

theorem BaySettled.refl (a : Bay) : BaySettled a a := ⟨.inl ⟨rfl, rfl, rfl⟩, rfl, .inl rfl⟩

theorem BaySettled.trans {a b c : Bay} (h : BaySettled a b) (k : BaySettled b c) : BaySettled a c := by
  refine ⟨?_, k.loadTimer.trans h.loadTimer, ?_⟩
  · rcases h.state with ⟨h1, h2, h3⟩ | ⟨h1, h2, h3, h4⟩ <;>
      rcases k.state with ⟨k1, k2, k3⟩ | ⟨k1, k2, k3, k4⟩ <;> simp_all
  · rcases k.loadResult with k | k
    · rw [k]; exact h.loadResult
    · exact .inr k

/-- Two lists related one by one, by a relation that composes. -/
theorem forall₂_trans {α : Type} {r : α → α → Prop} (tr : ∀ a b c, r a b → r b c → r a c) :
    ∀ {x y z : List α}, List.Forall₂ r x y → List.Forall₂ r y z → List.Forall₂ r x z
  | _, _, _, .nil, .nil => .nil
  | _, _, _, .cons h hs, .cons k ks => .cons (tr _ _ _ h k) (forall₂_trans tr hs ks)

theorem forall₂_map {α : Type} {r : α → α → Prop} {f : α → α} (h : ∀ a, r a (f a)) :
    ∀ l : List α, List.Forall₂ r l (l.map f)
  | [] => .nil
  | a :: l => .cons (h a) (forall₂_map h l)

theorem forall₂_same {α : Type} {r : α → α → Prop} (rf : ∀ a, r a a) : ∀ l : List α, List.Forall₂ r l l
  | [] => .nil
  | a :: l => .cons (rf a) (forall₂_same rf l)

theorem forall₂_modify {α : Type} {r : α → α → Prop} {f : α → α} (rf : ∀ a, r a a) :
    ∀ (l : List α) (n : Nat), (∀ a, l[n]? = some a → r a (f a)) → List.Forall₂ r l (l.modify n f)
  | [], n, _ => by cases n <;> exact .nil
  | a :: l, 0, h => by
    rw [List.modify_zero_cons]
    exact .cons (h a rfl) (forall₂_same rf l)
  | a :: l, n + 1, h => by
    rw [List.modify_succ_cons]
    exact .cons (rf a) (forall₂_modify rf l n fun b hb => h b (by simpa using hb))

theorem forall₂_imp {α : Type} {r q : α → α → Prop} (rq : ∀ a b, r a b → q a b) :
    ∀ {x y : List α}, List.Forall₂ r x y → List.Forall₂ q x y
  | _, _, .nil => .nil
  | _, _, .cons h hs => .cons (rq _ _ h) (forall₂_imp rq hs)

theorem forall₂_find {α : Type} {r : α → α → Prop} :
    ∀ {x y : List α}, List.Forall₂ r x y → ∀ b ∈ y, ∃ a ∈ x, r a b
  | _, _, .cons (a := a) h hs, c, hc => by
    rcases List.mem_cons.1 hc with rfl | hc
    · exact ⟨a, List.mem_cons_self, h⟩
    · obtain ⟨d, hd, hr⟩ := forall₂_find hs c hc
      exact ⟨d, List.mem_cons_of_mem _ hd, hr⟩

theorem Moved.refl {P : Tag → Prop} (u : State) : Moved P u u where
  powered := rfl
  straps := rfl
  pins := rfl
  map := rfl
  store := rfl
  params := rfl
  ctl := rfl
  freeNext := rfl
  pending := rfl
  portState := rfl
  lock := rfl
  mark := .inl rfl
  hold := rfl
  accepted := rfl
  entries := forall₂_same EntryMoved.refl _
  contents := rfl
  bays := forall₂_same BaySettled.refl _
  noticeQueue := List.prefix_refl _
  admission := List.prefix_refl _
  summary := rfl
  confirmTimer := rfl
  link := ⟨_, rfl⟩

theorem Moved.trans {P : Tag → Prop} {u v w : State} (h : Moved P u v) (k : Moved P v w) : Moved P u w where
  powered := k.powered.trans h.powered
  straps := k.straps.trans h.straps
  pins := k.pins.trans h.pins
  map := k.map.trans h.map
  store := k.store.trans h.store
  params := k.params.trans h.params
  ctl := k.ctl.trans h.ctl
  freeNext := k.freeNext.trans h.freeNext
  pending := k.pending.trans h.pending
  portState := k.portState.trans h.portState
  lock := k.lock.trans h.lock
  mark := by
    rcases h.mark with h | ⟨h, h'⟩ <;> rcases k.mark with k | ⟨k, k'⟩ <;> simp_all
  hold := k.hold.trans h.hold
  accepted := k.accepted.trans h.accepted
  entries := forall₂_trans (r := EntryMoved P) (fun _ _ _ a b => EntryMoved.trans a b) h.entries k.entries
  contents := k.contents.trans h.contents
  bays := forall₂_trans (r := BaySettled) (fun _ _ _ a b => BaySettled.trans a b) h.bays k.bays
  noticeQueue := h.noticeQueue.trans k.noticeQueue
  admission := h.admission.trans k.admission
  summary := k.summary.trans h.summary
  confirmTimer := k.confirmTimer.trans h.confirmTimer
  link := by
    obtain ⟨f, hf⟩ := h.link
    obtain ⟨g, hg⟩ := k.link
    exact ⟨g, by rw [hg, hf]⟩

theorem Moved.mono {P Q : Tag → Prop} (pq : ∀ t, P t → Q t) {u v : State} (h : Moved P u v) : Moved Q u v :=
  { h with entries := forall₂_imp (fun _ _ => EntryMoved.mono pq) h.entries }

/-- The tags of the QUEUED entries. -/
def State.queuedTag (u : State) (t : Tag) : Prop := ∃ e ∈ u.queue.entries, e.tag = t ∧ e.state = .queued

/-- Choices among QUEUED entries make no other entry QUEUED. -/
theorem Moved.queued {u v : State} (h : Moved u.queuedTag u v) (t : Tag) (k : v.queuedTag t) :
    u.queuedTag t := by
  obtain ⟨e, he, rfl, hs⟩ := k
  obtain ⟨a, ha, m⟩ := forall₂_find h.entries e he
  rw [Entry.tag_of_identity m.identity]
  by_contra hn
  exact hn ⟨a, ha, rfl, (m.state hn).1 ▸ hs⟩

/-! ### The operations of a choice -/

section
variable {P : Tag → Prop}

theorem State.modEntry_moved (s : State) {t : Tag} {f : Entry → Entry} (ht : P t)
    (hf : ∀ e, (f e).identity = e.identity) : Moved P s (s.modEntry t f) :=
  { Moved.refl (P := P) s with
    entries := forall₂_map
      (fun e => by
        by_cases h : e.tag = t
        · simp only [h, if_true]
          exact ⟨hf e, fun hn => absurd (h ▸ ht) hn⟩
        · simp only [h, if_false]
          exact EntryMoved.refl e) _ }

theorem Inventory.mapAll_mapAll (v : Inventory) (f g : PlaceRec → PlaceRec) :
    (v.mapAll f).mapAll g = v.mapAll (g ∘ f) := by simp [Inventory.mapAll]

theorem List.map_modify_same {α β : Type} (g : α → β) (f : α → α) (h : ∀ a, g (f a) = g a) :
    ∀ (l : List α) (n : Nat), (l.modify n f).map g = l.map g
  | [], n => by cases n <;> rfl
  | a :: l, 0 => by simp [List.modify_zero_cons, h]
  | a :: l, n + 1 => by
    rw [List.modify_succ_cons, List.map_cons, List.map_cons, List.map_modify_same g f h l n]

/-- A change to claims alone leaves the rest of the inventory. -/
theorem Inventory.contents_modify (v : Inventory) (x : Loc) (f : PlaceRec → PlaceRec)
    (h : ∀ p, { f p with claims := [] } = { p with claims := [] }) :
    (v.modify x f).contents = v.contents := by
  cases x <;>
    simp [Inventory.modify, Inventory.contents, Inventory.mapAll,
      List.map_modify_same (fun p : PlaceRec => { p with claims := [] }) f h, h]

theorem Inventory.contents_release (t : Tag) (xs : List Loc) :
    ∀ v : Inventory, (v.release xs t).contents = v.contents := by
  induction xs with
  | nil => exact fun _ => rfl
  | cons x xs ih =>
    intro v
    exact (ih _).trans (v.contents_modify x _ fun _ => rfl)

theorem Bay.forget_settled (t : Tag) (b : Bay) : BaySettled b (b.forget t) := by
  unfold Bay.forget
  split
  · split
    · exact ⟨.inl ⟨rfl, rfl, rfl⟩, rfl, .inr rfl⟩
    · exact BaySettled.refl b
  · exact BaySettled.refl b

theorem Queue.noticeIn_moved (q : Queue) (t : Tag) :
    List.Forall₂ (EntryMoved P) q.entries (q.noticeIn t).entries :=
  forall₂_map
    (fun e => by
      split
      · exact ⟨rfl, fun _ => ⟨rfl, rfl, rfl, rfl⟩⟩
      · exact EntryMoved.refl e) _

theorem Link.hand_frame (l : Link) (n : Notice) : ∃ f, l.hand n = { l with noticeFrames := f } := by
  unfold Link.hand
  split <;> exact ⟨_, rfl⟩

/-- Asking for the completion notice of an entry moves nothing else. -/
theorem State.askCompletion_moved (s u : State) (e : Entry) (r : Result) :
    Moved P s (s.askNotice (u.completion e r)) := by
  unfold State.completion
  split <;>
  · unfold State.askNotice State.enterNotice
    dsimp only
    obtain ⟨f, hf⟩ := Link.hand_frame s.link ⟨s.notices.next, 1, _⟩
    split
    · exact
        { Moved.refl (P := P) s with
          entries := Queue.noticeIn_moved _ _
          noticeQueue := List.prefix_append _ _
          link := ⟨_, hf⟩ }
    · exact { Moved.refl (P := P) s with admission := List.prefix_append _ _ }

theorem State.entryDone_moved (s : State) {t : Tag} (ht : P t) (r : Result) (c : Option ScanCounts) :
    Moved P s (s.entryDone t r c) := by
  unfold State.entryDone
  split
  · exact Moved.refl s
  · rename_i e _
    refine Moved.trans (Moved.trans (s.modEntry_moved (f := Entry.finish r c) ht fun _ => rfl) ?_)
      (State.askCompletion_moved _ _ _ _)
    exact
      { Moved.refl (P := P) _ with
        contents := Inventory.contents_release _ _ _
        bays := forall₂_map (Bay.forget_settled t) _
        confirmTimer := by
          show (if s.seq.runs t then s.seq.endJob else s.seq).confirmTimer = s.seq.confirmTimer
          split <;> rfl }

theorem State.beginStage_moved (s : State) (st : Stage) : Moved P s (s.beginStage st) := by
  obtain ⟨j, p, m, h⟩ := s.beginStage_frame st
  rw [h]
  exact { Moved.refl (P := P) s with }

theorem State.modJob_moved (s : State) (f : Job → Job) : Moved P s (s.modJob f) := { Moved.refl (P := P) s with }

/-- The next location of an entry's scan. -/
theorem State.nextLocation_moved (s : State) (a : Audit) {j : Job} {t : Tag} (hj : s.seq.job = some j)
    (hk : j.kind = .entry t) (ht : P t) : Moved P s (s.nextLocation a) := by
  unfold State.nextLocation
  simp only [hj, hk]
  split
  · exact s.entryDone_moved ht _ _
  · split
    · exact (s.modJob_moved _).trans (State.beginStage_moved _ _)
    · exact s.entryDone_moved ht _ _

/-- The first location of an audit that begins with orders, or of an entry's scan. -/
theorem State.beginAudit_moved (s : State)
    (h : ∀ a, s.audit? = some a → a.byOrders = true
      ∨ ∃ j t, s.seq.job = some j ∧ j.kind = .entry t ∧ P t) : Moved P s s.beginAudit := by
  unfold State.beginAudit
  split
  · exact Moved.refl s
  · rename_i a ha
    split
    · exact s.beginStage_moved _
    · rename_i hb
      obtain h | ⟨j, t, hj, hk, ht⟩ := h a ha
      · exact absurd h hb
      · exact s.nextLocation_moved _ hj hk ht

theorem State.firstProper_moved (s : State)
    (h : ∀ a, s.audit? = some a → a.byOrders = true
      ∨ ∃ j t, s.seq.job = some j ∧ j.kind = .entry t ∧ P t) : Moved P s s.firstProper := by
  unfold State.firstProper
  split
  · exact s.beginAudit_moved h
  · split
    · exact s.beginStage_moved _
    · exact s.beginStage_moved _
    · exact s.beginAudit_moved h

theorem State.startJob_moved (s : State) (j : Job)
    (h : ∀ a, j.audit = some a → a.byOrders = true ∨ ∃ t, j.kind = .entry t ∧ P t) :
    Moved P s (s.startJob j) := by
  have hq : ∀ q : Sequencer, q.confirmTimer = s.seq.confirmTimer → Moved P s { s with seq := q } :=
    fun q hc => { Moved.refl (P := P) s with confirmTimer := hc }
  unfold State.startJob
  dsimp only
  split
  · exact (hq { s.seq with job := some j } rfl).trans (State.beginStage_moved _ _)
  · exact (hq { s.seq with job := some j } rfl).trans (State.beginStage_moved _ _)
  · refine (hq { s.seq with job := some j, picker := .busy } rfl).trans
      (State.firstProper_moved _ fun a ha => ?_)
    obtain h | ⟨t, hk, ht⟩ := h a ha
    · exact .inl h
    · exact .inr ⟨j, t, rfl, hk, ht⟩

theorem State.startAudit_moved (s : State) (h : s.port.mark = .pending) : Moved P s s.startAudit := by
  unfold State.startAudit
  have hm : Moved P s { s with port := { s.port with mark := .running } } :=
    { Moved.refl (P := P) s with mark := .inr ⟨h, rfl⟩ }
  refine hm.trans (State.startJob_moved _ _ fun a ha => ?_)
  have : a.byOrders = true := by
    cases ha
    rfl
  exact .inl this

theorem State.startEntry_moved (s : State) (e : Entry) (ht : P e.tag) : Moved P s (s.startEntry e) := by
  unfold State.startEntry
  dsimp only
  refine Moved.trans (v := s.modEntry e.tag _) (s.modEntry_moved ht ?_)
    (State.startJob_moved _ _ fun _ _ => .inr ⟨_, rfl, ht⟩)
  exact fun _ => rfl

theorem State.assertEject_moved (s : State) (e : Entry) (n : Nat) (ht : P e.tag)
    (hb : (s.bay n).state = .loaded) : Moved P s (s.assertEject e n) := by
  unfold State.assertEject
  refine Moved.trans (v := s.modBay n _) ?_ (State.modEntry_moved _ ht fun _ => rfl)
  refine { Moved.refl (P := P) s with bays := forall₂_modify BaySettled.refl _ _ fun a ha => ?_ }
  have : s.bay n = a := by simp [State.bay, List.getD, ha]
  exact ⟨.inr ⟨this ▸ hb, rfl, rfl, rfl⟩, rfl, .inl rfl⟩

theorem State.ejectFor_some {s : State} {e : Entry} {n : Nat} (h : s.ejectFor e = some n) :
    e.state = .queued ∧ (s.bay n).state = .loaded := by
  unfold State.ejectFor at h
  split at h
  · split at h
    · rename_i hc
      cases h
      simp only [State.mayRun, Bool.and_eq_true, beq_iff_eq] at hc
      exact ⟨hc.1.1.1.1, hc.2⟩
    · exact absurd h (by simp)
  · exact absurd h (by simp)

theorem State.assertEjects_moved (s : State) : Moved s.queuedTag s s.assertEjects := by
  unfold State.assertEjects
  suffices h : ∀ (es : List Entry) (a : State), (∀ e ∈ es, e ∈ s.queue.entries) →
      Moved s.queuedTag s a →
      Moved s.queuedTag s (es.foldl (fun a e => match a.ejectFor e with
        | some n => a.assertEject e n
        | none => a) a) from h _ s (fun _ h => h) (Moved.refl s)
  intro es
  induction es with
  | nil => exact fun _ _ h => h
  | cons e es ih =>
    intro a hm ha
    rw [List.foldl_cons]
    refine ih _ (fun x hx => hm x (List.mem_cons_of_mem _ hx)) ?_
    split
    · rename_i n hn
      obtain ⟨hq, hb⟩ := State.ejectFor_some hn
      exact ha.trans (a.assertEject_moved e n ⟨e, hm e List.mem_cons_self, rfl, hq⟩ hb)
    · exact ha

theorem State.startPark_moved (s : State) : Moved P s s.startPark := by
  unfold State.startPark
  split
  · exact { Moved.refl (P := P) s with }
  · exact Moved.refl s

end

/-! ### The choices -/

theorem State.choices_moved (n : Nat) : ∀ s : State, Moved s.queuedTag s (State.choices n s) := by
  induction n with
  | zero => exact fun s => Moved.refl s
  | succ n ih =>
    intro s
    have ha := s.assertEjects_moved
    have next : ∀ v, Moved s.queuedTag s v → Moved s.queuedTag s (State.choices n v) := fun v hv =>
      hv.trans ((ih v).mono fun t ht => hv.queued t ht)
    unfold State.choices
    split
    · dsimp only
      split
      · rename_i h
        have hm : s.assertEjects.port.mark = .pending := by
          simp only [State.auditDue, Bool.and_eq_true, beq_iff_eq] at h
          exact h.1.1.2
        have hc : Moved s.queuedTag s.assertEjects s.assertEjects.cancelPark :=
          { Moved.refl (P := s.queuedTag) s.assertEjects with }
        exact (ha.trans hc).trans (State.startAudit_moved _ hm)
      · split
        · exact ha.trans (State.startPark_moved _)
        · rename_i e he
          have ht : s.queuedTag e.tag := by
            refine ha.queued _ ⟨e, List.mem_of_find?_eq_some he, rfl, ?_⟩
            have := List.find?_some he
            simp only [State.eligible, State.mayRun, Bool.and_eq_true, beq_iff_eq] at this
            exact this.1.1.1.1
          have hc : Moved s.queuedTag s s.assertEjects.cancelPark :=
            ha.trans { Moved.refl (P := s.queuedTag) s.assertEjects with }
          split
          · exact next _ (hc.trans (State.entryDone_moved _ ht _ _))
          · exact next _ (hc.trans (State.startEntry_moved _ e ht))
    · exact Moved.refl s

/-- With the picker held no choice is made. -/
theorem State.choices_held (n : Nat) (s : State) (h : s.seq.free = false) : State.choices n s = s := by
  cases n with
  | zero => rfl
  | succ n => simp [State.choices, h]

/-- A job holds the picker. -/
theorem Sequencer.held_of_job {q : Sequencer} (h : q.job.isSome = true) : q.free = false := by
  unfold Sequencer.free
  cases hj : q.job <;> simp_all

theorem State.choose_moved (old new : State) : Moved new.queuedTag new (State.choose old new) := by
  unfold State.choose
  split
  · exact State.choices_moved _ _
  · exact Moved.refl _

theorem State.choose_held (old new : State) (h : new.seq.free = false) : State.choose old new = new := by
  unfold State.choose
  split
  · exact State.choices_held _ _ h
  · rfl

/-! ### The order a choice sends -/

/-- A step sends no order, or leaves a job. -/
def OrderOf (u v : State) : Prop := v.mech = u.mech ∨ v.seq.job.isSome = true

theorem State.entryDone_mech (s : State) (t : Tag) (r : Result) (c : Option ScanCounts) :
    (s.entryDone t r c).mech = s.mech := by
  obtain ⟨q, i, b, n, l, sq, h⟩ := s.entryDone_frame t r c
  rw [h]

theorem State.beginStage_order (s : State) (st : Stage) : OrderOf s (s.beginStage st) := by
  cases h : s.seq.job with
  | none => left; simp [State.beginStage, h]
  | some j => right; rw [State.beginStage_job, h]; rfl

theorem State.completeAudit_mech (s : State) : s.completeAudit.mech = s.mech := by
  unfold State.completeAudit
  dsimp only
  obtain ⟨n, f, h⟩ := s.askAttention_frame (.portAudited ((List.range Config.portCells).map fun n =>
    ((s.inv.place (.cell n)).occ, (s.inv.place (.cell n)).holds)))
  rw [h]
  rfl

theorem State.nextLocation_order (s : State) (a : Audit) : OrderOf s (s.nextLocation a) := by
  unfold State.nextLocation
  split
  · exact .inl rfl
  · split
    · split
      · exact .inl (s.entryDone_mech _ _ _)
      · split
        · exact State.beginStage_order _ _
        · exact .inl (s.entryDone_mech _ _ _)
    · split
      · exact State.beginStage_order _ _
      · exact .inl s.completeAudit_mech

theorem State.beginAudit_order (s : State) : OrderOf s s.beginAudit := by
  unfold State.beginAudit
  split
  · exact .inl rfl
  · split
    · exact s.beginStage_order _
    · exact s.nextLocation_order _

theorem State.firstProper_order (s : State) : OrderOf s s.firstProper := by
  unfold State.firstProper
  split
  · exact s.beginAudit_order
  · split
    · exact s.beginStage_order _
    · exact s.beginStage_order _
    · exact s.beginAudit_order

theorem State.startJob_order (s : State) (j : Job) : OrderOf s (s.startJob j) := by
  unfold State.startJob
  dsimp only
  split
  · exact State.beginStage_order _ _
  · exact State.beginStage_order _ _
  · exact State.firstProper_order _

theorem State.assertEjects_mech (s : State) : s.assertEjects.mech = s.mech := by
  unfold State.assertEjects
  suffices h : ∀ (es : List Entry) (a : State),
      (es.foldl (fun a e => match a.ejectFor e with
        | some n => a.assertEject e n
        | none => a) a).mech = a.mech from h _ s
  intro es
  induction es with
  | nil => exact fun _ => rfl
  | cons e es ih =>
    intro a
    rw [List.foldl_cons, ih]
    split <;> rfl

theorem State.startPark_mech (s : State) : s.startPark.mech = s.mech := by
  unfold State.startPark
  split <;> rfl

theorem State.choices_order (n : Nat) : ∀ s : State, OrderOf s (State.choices n s) := by
  induction n with
  | zero => exact fun s => .inl rfl
  | succ n ih =>
    intro s
    have ha := s.assertEjects_mech
    have next : ∀ v, OrderOf s v → OrderOf s (State.choices n v) := by
      rintro v (hv | hv)
      · rcases ih v with h | h
        · exact .inl (h.trans hv)
        · exact .inr h
      · rw [State.choices_held _ _ (Sequencer.held_of_job hv)]
        exact .inr hv
    unfold State.choices
    split
    · dsimp only
      split
      · rcases State.startJob_order _ _ with h | h
        · exact .inl (h.trans ha)
        · exact .inr h
      · split
        · exact .inl ((State.startPark_mech _).trans ha)
        · split
          · exact next _ (.inl ((State.entryDone_mech _ _ _ _).trans ha))
          · refine next _ ?_
            rcases State.startJob_order _ _ with h | h
            · exact .inl (h.trans ha)
            · exact .inr h
    · exact .inl rfl

theorem State.choose_order (old new : State) : OrderOf new (State.choose old new) := by
  unfold State.choose
  split
  · exact State.choices_order _ _
  · exact .inl rfl

/-! ### The end of an event -/

/-- The frames a link may have in course of sending after the transmitter's choice, whatever notice frames
were added before it. -/
theorem Link.startNext_of_frames (l : Link) (f : List Notice) :
    ({ l with noticeFrames := f }.startNext.replies = l.replies
      ∨ ∃ r, l.sending = none ∧ { l with noticeFrames := f }.startNext.sending = some (.reply r)
          ∧ l.replies = r :: { l with noticeFrames := f }.startNext.replies) :=
  Link.startNext_replies { l with noticeFrames := f }

/-- Every event ends in a state its own effect settles to. -/
theorem State.settle_settled (old new : State) : Settled new (State.settle old new) := by
  have h := State.choose_moved old new
  have ho := State.choose_order old new
  have hh := State.choose_held old new
  obtain ⟨f, hl⟩ := h.link
  unfold State.settle
  dsimp only
  obtain ⟨x, r, n, hn⟩ := Link.startNext_frame (State.choose old new).link
  exact
    { powered := h.powered, straps := h.straps, pins := h.pins, map := h.map, store := h.store,
      params := h.params, ctl := h.ctl, freeNext := h.freeNext, pending := h.pending,
      portState := h.portState, lock := h.lock, mark := h.mark, hold := h.hold, accepted := h.accepted,
      identities := by
        have : ∀ {x y : List Entry}, List.Forall₂ (EntryMoved new.queuedTag) x y →
            y.map Entry.identity = x.map Entry.identity := by
          intro x y h
          induction h with
          | nil => rfl
          | cons h _ ih => rw [List.map_cons, List.map_cons, h.identity, ih]
        exact this h.entries
      entries := by
        intro hd
        have : ∀ {x y : List Entry}, List.Forall₂ (EntryMoved new.queuedTag) x y →
            (∀ e ∈ x, e ∈ new.queue.entries) → List.Forall₂ EntrySettled x y := by
          intro x y h
          induction h with
          | nil => exact fun _ => .nil
          | @cons a b x y h _ ih =>
            intro hm
            refine .cons ⟨h.identity, fun hs => h.state ?_⟩ (ih fun e he => hm e (List.mem_cons_of_mem _ he))
            rintro ⟨e, he, ht, hq⟩
            have : e = a := List.inj_on_of_nodup_map hd he (hm a List.mem_cons_self) ht
            exact hs (this ▸ hq)
        exact this h.entries fun _ h => h
      contents := h.contents, bays := h.bays, noticeQueue := h.noticeQueue, admission := h.admission,
      summary := h.summary, confirmTimer := h.confirmTimer, mech := ho
      receiver := by rw [hn, hl]
      lastSeq := by rw [hn, hl]
      cache := by rw [hn, hl]
      replyPending := by rw [hn, hl]
      resetWait := by rw [hn, hl]
      sending := fun hs => by
        rw [Link.startNext_sending _ (by rw [hl]; exact hs), hl]
      replies := by rw [hl]; exact new.link.startNext_of_frames f
      held := fun hf => by rw [hh hf] }

/-- A change to the link alone causes no choice. -/
theorem State.choose_link (s : State) (l : Link) : State.choose s { s with link := l } = { s with link := l } := by
  unfold State.choose
  rw [if_neg]
  have hm : s.queue.entries.any (Entry.movedOn s.queue.entries) = false := by
    rw [List.any_eq_false]
    intro e he
    simp only [Entry.movedOn, Bool.and_eq_true, Bool.not_eq_true', not_and, Bool.not_eq_false]
    intro _
    rw [List.any_eq_true]
    exact ⟨e, he, by simp [Entry.same]⟩
  simp [State.choiceDue, hm]

/-- An event that changes the link alone ends with the transmitter's choice. -/
theorem State.settle_link (s : State) (l : Link) :
    State.settle s { s with link := l } = { s with link := l.startNext } := by
  unfold State.settle
  rw [State.choose_link]

/-- An event that changes nothing ends with the transmitter's choice. -/
theorem State.settle_same (s : State) : State.settle s s = { s with link := s.link.startNext } :=
  s.settle_link s.link

end Sys2Proof.Machine
end

