-- ==== Sys2Proof/Laws/Link.lean ====
section
/-! SUPPORT. How a request reaches the block that takes it, and what a reply leaves: a proof about a request
cites these and sees neither the link nor the end of the event. -/

namespace Sys2Proof.Machine

/-- A powered part takes the event. -/
theorem State.event_powered {s : State} (h : s.powered = true) (f : State → State) :
    s.event f = .next (State.settle s (f s)) := by simp [State.event, h]

/-- A part without power does not. -/
theorem State.event_dark {s : State} (h : s.powered = false) (f : State → State) :
    s.event f = .next s := by simp [State.event, h]

/-- An accepted frame reaches its block with the link as R169 leaves it. -/
theorem State.takeFrame_accepted {s : State} {q : Byte} (h : s.takes q) (k : Byte) {b : List Byte}
    (hb : b.length ≤ Config.bodyMax) (act : State → State) :
    s.takeFrame q k b act = act (s.accepted q) := by
  obtain ⟨-, hw, hp, hl⟩ := h
  unfold State.takeFrame
  rw [if_neg (Nat.not_lt.2 hb)]
  have h1 : ¬ (s.link.resetWait.isSome = true) := by simp [hw]
  have h2 : ¬ (s.link.replyPending = true) := by simp [hp]
  exact (if_neg h1).trans ((if_neg hl).trans (if_neg h2))

/-- A well-formed request reaches its block. -/
theorem State.request_taken {α : Type} {s : State} {q : Byte} (h : s.takes q) (k : Byte) {body : List Byte}
    (hb : body.length ≤ Config.bodyMax) {parse : List Byte → Except Nat α} {b : α}
    (hp : parse body = .ok b) (act : State → α → State) :
    s.request q k body parse act = .next (State.settle s (act (s.accepted q) b)) := by
  unfold State.request
  rw [State.event_powered h.1, State.takeFrame_accepted h k hb]
  simp only [hp]

/-- A malformed request is answered BAD_FORMAT. -/
theorem State.request_malformed {α : Type} {s : State} {q : Byte} (h : s.takes q) (k : Byte)
    {body : List Byte} (hb : body.length ≤ Config.bodyMax) {parse : List Byte → Except Nat α} {o : Nat}
    (hp : parse body = .error o) (act : State → α → State) :
    s.request q k body parse act
      = .next (State.settle s ((s.accepted q).reply q k .badFormat [byteOf o])) := by
  unfold State.request
  rw [State.event_powered h.1, State.takeFrame_accepted h k hb]
  simp only [hp]

/-- An event whose own effect changes the link alone ends with the transmitter's choice. -/
theorem State.settle_of_link {s t : State} (h : t = { s with link := t.link }) :
    State.settle s t = { s with link := t.link.startNext } := by
  rw [h]
  exact s.settle_link t.link

/-- A request answered at once, with nothing else done, leaves its reply. -/
theorem State.settle_answered (s : State) (q k : Byte) (st : Status) (fs : List Byte) :
    State.settle s ((s.accepted q).reply q k st fs) = s.answered q (replyFrame q k st fs) :=
  State.settle_of_link rfl

/-- The transmitter's choice hands nothing over and begins at most the first waiting reply. -/
theorem Link.startNext_handed (l m : Link) (fs : List ReplyFrame) (hr : m.replies = l.replies ++ fs)
    (hs : m.sending = l.sending) : Handed l m.startNext fs := by
  rcases Link.startNext_replies m with h | ⟨r, h1, h2, h3⟩
  · exact .inl (h.trans hr)
  · exact .inr ⟨hs ▸ h1, r, hr ▸ h3, h2⟩

/-- A command that leaves its reply and nothing else changes the link alone. -/
theorem State.linkOnly_of_answered {c : Instr} {s : State} {q : Byte} {f : Frame}
    (h : exec c s = .next (s.answered q f)) : LinkOnly c s (some q) (some f) false [⟨f, false⟩] := by
  obtain ⟨x, r, n, hn⟩ := Link.startNext_frame
    { s.link with
      receiver := .hunting, lastSeq := some q, cache := some f, replyPending := false,
      replies := s.link.replies ++ [⟨f, false⟩] }
  refine ⟨_, h, rfl, ?_, ?_, ?_, ?_, Link.startNext_handed _ _ _ rfl rfl⟩ <;>
    exact (congrArg _ hn).trans rfl

/-- A change of the receiver alone. -/
theorem State.settle_receive (s : State) (r : Receiver) :
    State.settle s (s.receive r) = { s with link := { s.link with receiver := r : Link }.startNext } :=
  s.settle_link _

/-- With the picker held nothing but the transmitter moves at the end of an event. -/
theorem State.settle_held {old new : State} (h : new.seq.free = false) :
    State.settle old new = { new with link := new.link.startNext } := by
  unfold State.settle
  rw [State.choose_held _ _ h]

end Sys2Proof.Machine
end

