-- ==== Sys2Proof/Laws/Jobs.lean ====
section
/-! SUPPORT. How an outcome reaches the job in flight, what a stage's beginning leaves, and what a boundary and an
entry to FAULTED are, in the terms of Safety.lean: a proof about the sequencer cites these. -/

namespace Sys2Proof.Machine

/-- Every stage but a TRAVEL names no location in its order, and a stage's beginning is `ordered`. -/
theorem State.beginStage_ordered {s : State} {j : Job} (hj : s.seq.job = some j) (st : Stage) :
    s.beginStage st = s.ordered (j.enter st s.params.retries) st.picker st.order (s.target j st) := by
  simp [State.beginStage, hj, State.ordered, State.sendOrder, State.stageLength]

/-- The next attempt of a stage sends its order again. -/
theorem State.retryStage_ordered {s : State} {j : Job} (hj : s.seq.job = some j) (st : Stage) :
    s.retryStage st
      = s.ordered { j with stage := some st, retry := j.retry + 1 } st.picker st.order (s.target j st) := by
  simp [State.retryStage, hj, State.ordered, State.sendOrder, State.stageLength]

/-- The entry whose job is in flight. -/
theorem State.running_of {s : State} {j : Job} {e : Entry} (hj : s.seq.job = some j) (he : JobOf s j e) :
    s.running? = some e := by
  simp only [State.running?, hj, he.1]
  exact he.2

/-- The entry with a tag, after a change of that entry which keeps its tag. -/
theorem State.modEntry_self {s : State} {t : Tag} {e : Entry} (h : s.entry? t = some e) {f : Entry → Entry}
    (hf : ∀ x, (f x).tag = x.tag) : (s.modEntry t f).entry? t = some (f e) := by
  unfold State.entry? State.modEntry at *
  dsimp only
  generalize s.queue.entries = es at h
  induction es with
  | nil => simp at h
  | cons a r ih =>
    by_cases ha : a.tag = t
    · simp only [List.find?_cons, ha, beq_self_eq_true, Option.some.injEq] at h
      subst h
      simp [ha, hf]
    · simp only [List.find?_cons, beq_false_of_ne ha, List.map_cons, ha, if_false] at h ⊢
      exact ih h

/-- The return path called for at the job in flight is `sentHome` (R81, R82). -/
theorem State.callReturn_sentHome {s : State} {j : Job} {e : Entry} (hj : s.seq.job = some j)
    (he : JobOf s j e) (c : Cause) :
    s.callReturn e c = s.sentHome j e c c.noHome (c.pendingAfter j.interruption) := by
  unfold State.callReturn State.sentHome
  split
  · have h1 : ((s.modEntry e.tag ({ · with state := .running })).modJob fun j =>
        { j with onReturn := some c, interruption := c.pendingAfter j.interruption }).seq.job
          = some { j with onReturn := some c, interruption := c.pendingAfter j.interruption } := by
      simp [State.modJob, hj]
    have h2 : JobOf ((s.modEntry e.tag ({ · with state := .running })).modJob fun j =>
        { j with onReturn := some c, interruption := c.pendingAfter j.interruption })
          { j with onReturn := some c, interruption := c.pendingAfter j.interruption }
          { e with state := .running } := ⟨he.1, State.modEntry_self he.2 fun _ => rfl⟩
    rw [State.beginStage_ordered h1]
    simp only [State.target, State.running_of h1 h2, Option.bind_some]
    rfl
  · obtain ⟨q, i, b, n, l, sq, h⟩ := s.entryDone_frame e.tag c.noHome none
    unfold State.giveUp State.enterHolding
    rw [h]

/-- A boundary with an interruption pending, off the return path and before the cartridge is placed, is `broken`
(R83, R86). -/
theorem State.atBoundary_broken {s : State} {j : Job} {e : Entry} {i : Interruption}
    (hj : s.seq.job = some j) (he : JobOf s j e) (hk : e.kind = .move ∨ e.kind = .stow)
    (hp : e.placed = none) (hr : j.onReturn = none) (hi : j.interruption = some i) (go : State → State) :
    s.atBoundary go = s.broken j e i := by
  unfold State.atBoundary State.broken
  simp only [hj, he.1, State.running_of hj he]
  rcases hk with hk | hk <;> simp only [hk]
  · simp only [State.moveBoundary, hr, hi, hp]
    simp only [Option.isSome_none, Bool.false_eq_true, if_false, true_and]
    split
    · rw [State.callReturn_sentHome hj he]
      cases i <;> rfl
    · cases i <;> rfl
  · simp [State.stowBoundary, hi, hp]
    cases i <;> rfl

/-- A MOVE off its return path with no interruption pending goes on. -/
theorem State.atBoundary_move {s : State} {j : Job} {e : Entry} (hj : s.seq.job = some j)
    (he : JobOf s j e) (hk : e.kind = .move) (hr : j.onReturn = none)
    (hi : j.interruption = none) (go : State → State) : s.atBoundary go = go s := by
  simp [State.atBoundary, hj, he.1, State.running_of hj he, hk, State.moveBoundary, hr, hi]

/-- A STOW with no interruption pending goes on. -/
theorem State.atBoundary_stow {s : State} {j : Job} {e : Entry} (hj : s.seq.job = some j)
    (he : JobOf s j e) (hk : e.kind = .stow)
    (hi : j.interruption = none) (go : State → State) : s.atBoundary go = go s := by
  simp [State.atBoundary, hj, he.1, State.running_of hj he, hk, State.stowBoundary, hi]

/-- On the return path the home test decides (R81). -/
theorem State.atBoundary_home {s : State} {j : Job} {e : Entry} {c : Cause} (hj : s.seq.job = some j)
    (he : JobOf s j e) (hk : e.kind = .move) (hr : j.onReturn = some c) (go : State → State) :
    s.atBoundary go = if s.homeTest e = true then go s else s.giveUp e c.noHome := by
  simp [State.atBoundary, hj, he.1, State.running_of hj he, hk, State.moveBoundary, hr]

/-- A SCAN goes on: its stop waits for the end of the location (R136). -/
theorem State.atBoundary_scan {s : State} {j : Job} {e : Entry} (hj : s.seq.job = some j)
    (he : JobOf s j e) (hk : e.kind = .scan) (go : State → State) : s.atBoundary go = go s := by
  simp [State.atBoundary, hj, he.1, State.running_of hj he, hk]

/-- An interrupted port audit ends, and any other goes on (R125). -/
theorem State.atBoundary_portAudit {s : State} {j : Job} (hj : s.seq.job = some j) (hk : j.kind = .portAudit)
    (go : State → State) :
    s.atBoundary go =
      if j.interruption.isSome = true then
        { s with seq := { s.seq with job := none, picker := s.seq.picker.afterJob } } else go s := by
  simp [State.atBoundary, hj, hk, Sequencer.endJob]

/-- A mode set and the job halted is `halted`, at every mode but HOLDING. -/
theorem State.setMode_haltJob (s : State) (m : LibMode) (c : ModeCause) (t : Option Tag) (hm : m ≠ .holding) :
    (s.setMode m c t).haltJob = s.halted m c t := by
  unfold State.setMode State.halted State.haltJob
  simp only [hm, if_false]
  unfold State.askAttention
  dsimp only
  split
  · simp only [State.enterNotice]
    cases s.port.mark <;> rfl
  · dsimp only
    cases s.port.mark <;> rfl

/-- The one update of a stop or fault is `unsettled`. -/
theorem State.unsettle_unsettled (s : State) (x : Option Loc) : s.unsettle x = s.unsettled x := by
  cases x with
  | none => rfl
  | some x => cases x <;> rfl

/-- Entry to FAULTED by the second homing failure. -/
theorem State.homingFaulted_halted (s : State) : s.homingFaulted = s.halted .faulted .homingFailed none :=
  s.setMode_haltJob _ _ _ (by decide)

/-- The second homing failure changes no location record: the inventory and the bays stand (R155). -/
theorem State.homingFaulted_inv (s : State) : s.homingFaulted.inv = s.inv ∧ s.homingFaulted.bays = s.bays := by
  obtain ⟨_, _, _, h⟩ := s.setMode_frame .faulted .homingFailed none
  simp [State.homingFaulted, h, State.haltJob_frame]

/-- The stage location of an entry's job. -/
theorem State.stageLocation_of {s : State} {j : Job} {e : Entry} (hj : s.seq.job = some j) (he : JobOf s j e) :
    s.stageLocation =
      match j.stage with
      | some .pick => e.source
      | some .place => j.placeAt e
      | some (.retract .pickFault) => e.source
      | some (.retract .pickNone) => e.source
      | some (.retract .placed) => j.placeAt e
      | some (.retract .placeFault) => j.placeAt e
      | _ => none := by
  have h := State.running_of hj he
  unfold State.stageLocation
  generalize s.running? = r at h ⊢
  rw [hj]
  subst h
  obtain ⟨_, st, _, _, _, _, _, _⟩ := j
  rcases st with _ | st <;> rfl

/-- Entry to FAULTED from an entry's job. -/
theorem State.mechanismFault_entry {s : State} {j : Job} {e : Entry} (hj : s.seq.job = some j)
    (he : JobOf s j e) : s.mechanismFault = s.endsFaulted e s.stageLocation (j.audit.map Audit.cut) := by
  unfold State.mechanismFault State.endsFaulted
  simp only [State.running_of hj he, State.countsNow, hj, Option.map_some]
  rw [State.setMode_haltJob _ _ _ _ (by decide), State.unsettle_unsettled]
  rfl

/-- Entry to FAULTED from the port audit. -/
theorem State.mechanismFault_portAudit {s : State} {j : Job} (hj : s.seq.job = some j)
    (hk : j.kind = .portAudit) : s.mechanismFault = (s.halted .faulted .mechanism none).unsettled none := by
  have hr : s.running? = none := by simp [State.running?, hj, hk]
  unfold State.mechanismFault
  simp only [hr, Option.map_none]
  rw [State.setMode_haltJob _ _ _ _ (by decide), State.unsettle_unsettled]
  simp [State.stageLocation, hj, hr]

/-- The current job after a change of it. -/
theorem State.modJob_job {s : State} {j : Job} (hj : s.seq.job = some j) (f : Job → Job) :
    (s.modJob f).seq.job = some (f j) := by
  simp only [State.modJob, hj, Option.map_some]

/-- The audit of the current job. -/
theorem State.audit_of {s : State} {j : Job} {v : Audit} (hj : s.seq.job = some j) (hv : j.audit = some v) :
    s.audit? = some v := by
  simp only [State.audit?, hj, Option.bind_some, hv]

/-- The TRAVELs of an entry's job. -/
theorem State.beginStage_entryTravel {s : State} {j : Job} {e : Entry} (hj : s.seq.job = some j)
    (he : JobOf s j e) :
    s.beginStage (.travel .source)
        = s.ordered { j with stage := some (.travel .source) } .busy .travel e.source
      ∧ s.beginStage (.travel .dest)
        = s.ordered { j with stage := some (.travel .dest) } .busy .travel e.dest := by
  constructor <;> rw [State.beginStage_ordered hj] <;>
    simp [State.target, State.running_of hj he, Job.enter, Stage.counted, Stage.picker, Stage.order]

/-- The TRAVEL of an audit. -/
theorem State.beginStage_scanTravel {s : State} {j : Job} {v : Audit} (hj : s.seq.job = some j)
    (hv : j.audit = some v) :
    s.beginStage (.travel .scan)
      = s.ordered { j with stage := some (.travel .scan) } .busy .travel (some v.current) := by
  rw [State.beginStage_ordered hj]
  simp [State.target, hv, Job.enter, Stage.counted, Stage.picker, Stage.order]

/-- A stage that is no TRAVEL and whose attempts are not counted. -/
theorem State.beginStage_plain {v : State} {j : Job} (hv : v.seq.job = some j) (st : Stage)
    (hst : st.order ≠ .travel) (hc : st.counted = false) :
    v.beginStage st = v.ordered { j with stage := some st } st.picker st.order none := by
  rw [State.beginStage_ordered hv]
  simp only [Job.enter, hc, Bool.false_eq_true, if_false]
  congr 1
  cases st <;> simp_all [State.target, Stage.order]

/-- The next attempt of a stage that is no TRAVEL. -/
theorem State.retryStage_plain {v : State} {j : Job} (hv : v.seq.job = some j) (st : Stage)
    (hst : st.order ≠ .travel) :
    v.retryStage st
      = v.ordered { j with stage := some st, retry := j.retry + 1 } st.picker st.order none := by
  rw [State.retryStage_ordered hv]
  congr 1
  cases st <;> simp_all [State.target, Stage.order]

/-- The job's entry after a change of it which keeps its tag. -/
theorem State.jobOf_modEntry {v : State} {j : Job} {e : Entry} (he : JobOf v j e) (f : Entry → Entry)
    (hf : ∀ x, (f x).tag = x.tag) : JobOf (v.modEntry e.tag f) j (f e) := by
  constructor <;> rw [hf]
  · exact he.1
  · exact State.modEntry_self he.2 hf

/-- The label of a LABEL outcome whose text is one. -/
theorem outcomeLabel_ok {l : Label} (h : labelOk l = true) : outcomeLabel (.label l) = some l := by
  simp only [labelOk, Bool.and_eq_true, decide_eq_true_eq] at h
  simp only [outcomeLabel, labelOutcome]
  exact if_pos ⟨fun q => by simp [q] at h, h.1.2, h.2⟩

end Sys2Proof.Machine
end

