-- ==== Sys2Proof/Laws/Audits.lean ====
section
/-! SUPPORT. What an audit records at a location and how a SCAN goes on from it, in the terms of Safety.lean: a proof
about an audit's outcomes cites these. -/

namespace Sys2Proof.Machine

/-- What an audit records changes neither the job nor the entries. -/
theorem State.recordedAt_frame (v : State) (x : Loc) (o : Occ) (l : Option Label) (r : Bool) :
    (v.recordedAt x o l r).seq = v.seq ∧ (v.recordedAt x o l r).queue = v.queue := by
  have hi (f : Inventory → Inventory) :
      (v.inventoryUpdate f).seq = v.seq ∧ (v.inventoryUpdate f).queue = v.queue :=
    ⟨v.inventoryUpdate_seq f, v.inventoryUpdate_queue f⟩
  have hb (n : Nat) (st : BayState) (l : Option Label) :
      (v.bayUpdate n st l).seq = v.seq ∧ (v.bayUpdate n st l).queue = v.queue :=
    ⟨(v.bayUpdate_keeps n st l id).1, (v.bayUpdate_keeps n st l id).2.1⟩
  unfold State.recordedAt
  cases x <;> dsimp only
  · exact hi _
  · split
    · split
      · exact hb _ _ _
      · split
        · exact hb _ _ _
        · exact ⟨rfl, rfl⟩
    · exact ⟨rfl, rfl⟩
  · split <;> exact hi _
  · exact hi _

/-- The sequencer's change at a port cell. -/
theorem State.seqPut_cell (v : State) (n : Nat) (o : Occ) (l : Option Label) :
    v.seqPut (.cell n) o l =
      if v.port.state = .secured ∨ v.port.mark = .running then (·.put (.cell n) o l)
      else (·.put (.cell n) .unknown none) := by
  have hk : v.cellsKnown = decide (v.port.state = .secured ∨ v.port.mark = .running) := by
    cases h1 : v.port.state <;> cases h2 : v.port.mark <;> simp [State.cellsKnown, h1, h2]
  funext w
  simp only [State.seqPut, Loc.isCell, hk]
  by_cases h : v.port.state = .secured ∨ v.port.mark = .running <;> simp [h]

/-- A PROBE outcome is recorded as `recordedAt` has it. -/
theorem State.applyProbe_recordedAt (v : State) (x : Loc) (o : Occ) :
    v.applyProbe x o = v.recordedAt x o none false := by
  cases x with
  | bay n => simp only [State.applyProbe, State.recordedAt]; split <;> split <;> simp_all
  | cell n => simp only [State.applyProbe, State.recordedAt, State.seqPut_cell]; split <;> rfl
  | _ => rfl

/-- A READ outcome is recorded as `recordedAt` has it. -/
theorem State.applyRead_recordedAt (v : State) (x : Loc) (l : Option Label) :
    v.applyRead x l = v.recordedAt x .occupied l true := by
  cases x with
  | bay n => simp [State.applyRead, State.recordedAt]
  | cell n => simp only [State.applyRead, State.recordedAt, State.seqPut_cell]; split <;> rfl
  | _ => rfl

/-- The TRAVEL to a location that has become current. -/
theorem State.beginStage_nextLocation {v : State} {j : Job} (b : Audit) (hv : v.seq.job = some j) :
    (v.modJob (fun x => { x with audit := some b })).beginStage (.travel .scan)
      = v.ordered { j with stage := some (.travel .scan), audit := some b } .busy .travel (some b.current) := by
  rw [State.beginStage_scanTravel (State.modJob_job hv _) rfl]; rfl

/-- A SCAN that comes to its next location has passed those that call for no order. -/
theorem State.seek_passes (v : State) (xs : List Loc) : ∀ a : Audit,
    let passed := xs.takeWhile fun y => !v.callsForOrders y
    let left := xs.dropWhile fun y => !v.callsForOrders y
    let b := (v.seek false a xs).1
    (v.seek false a xs).2 = !left.isEmpty
      ∧ b.audited = a.audited + passed.length
      ∧ b.occupied
          = a.occupied + (passed.filter fun y => y.isBay && (v.inv.place y).occ == .occupied).length
      ∧ b.changed = a.changed
      ∧ ∀ y r, left = y :: r → b.current = y ∧ b.rest = r ∧ b.byOrders = true
          ∧ b.beforeOcc = (v.inv.place y).occ ∧ b.beforeLabel = (v.inv.place y).holds := by
  have hby : ∀ y, v.byOrders false y = v.callsForOrders y := by
    intro y
    cases y <;> simp [State.callsForOrders, State.byOrders]
  induction xs with
  | nil => simp [State.seek]
  | cons x r ih =>
    intro a
    simp only [State.seek, State.arrive, hby]
    cases hx : v.callsForOrders x with
    | true => simp [hx]
    | false =>
      simp only [Bool.false_eq_true, if_false]
      obtain ⟨h1, h2, h3, h4, h5⟩ := ih
        (Audit.pass
          { a with
            current := x, rest := r, byOrders := false, beforeOcc := (v.inv.place x).occ,
            beforeLabel := (v.inv.place x).holds })
      simp only [List.takeWhile, List.dropWhile, hx, Bool.not_false]
      refine ⟨h1, ?_, ?_, h4, h5⟩
      · rw [h2]
        simp only [Audit.pass, List.length_cons]
        omega
      · rw [h3]
        simp only [Audit.pass, List.filter]
        cases x.isBay && (v.inv.place x).occ == .occupied <;> simp
        omega

/-- Once a location of a SCAN is counted, it goes on as `scanGoesOn` has it. -/
theorem State.nextLocation_scanGoesOn {v : State} {j : Job} {e : Entry} (a : Audit)
    (hvj : v.seq.job = some j) (hve : JobOf v j e) (f : Option Loc) :
    v.nextLocation a = v.scanGoesOn j e ⟨a.audited, a.occupied, a.changed, f⟩ a.rest := by
  unfold State.scanGoesOn
  simp only [State.nextLocation, hvj, hve.1]
  by_cases hi : j.interruption.isSome = true ∧ a.rest ≠ []
  · rw [if_pos hi, if_pos]
    · rfl
    · simp [hi.1, hi.2]
  · rw [if_neg hi, if_neg]
    · obtain ⟨h1, h2, h3, h4, h5⟩ := State.seek_passes v a.rest a
      have : ∃ b k, v.seek false a a.rest = (b, k) := ⟨_, _, rfl⟩
      obtain ⟨b, k, hs⟩ := this
      rw [hs] at h1 h2 h3 h4 h5 ⊢
      dsimp only at h1 h2 h3 h4 h5
      cases hd : a.rest.dropWhile fun y => !v.callsForOrders y with
      | nil =>
        rw [hd] at h1; simp at h1; subst h1
        simp only [Audit.counts, h2, h3, h4]
      | cons y r =>
        rw [hd] at h1; simp at h1; subst h1
        obtain ⟨k1, k2, k3, k4, k5⟩ := h5 y r hd
        simp only
        rw [State.beginStage_nextLocation _ hvj]
        obtain ⟨b1, b2, b3, b4, b5, b6, b7, b8⟩ := b
        simp only at h2 h3 h4 k1 k2 k3 k4 k5
        subst k1; subst k2; subst k3; subst k4; subst k5; subst h2; subst h3; subst h4
        simp only [hve.1]
    · intro q; apply hi; simpa using q

/-- A SCAN whose first location calls for no order passes it. -/
theorem State.firstProper_passed {v : State} {j : Job} {e : Entry} {a : Audit} (hvj : v.seq.job = some j)
    (hve : JobOf v j e) (hk : e.kind = .scan) (ha : j.audit = some a) (hb : a.byOrders = false) :
    v.firstProper = v.scanGoesOn j e a.passed a.rest := by
  simp only [State.firstProper, State.running_of hvj hve, hk, State.beginAudit, State.audit_of hvj ha, hb,
    Bool.false_eq_true, if_false]
  rw [State.nextLocation_scanGoesOn _ hvj hve none]
  simp only [Audit.pass, Audit.passed]
  congr 2
  cases a.current.isBay <;> cases a.beforeOcc <;> rfl

end Sys2Proof.Machine
end

