-- ==== Sys2Proof/Laws/Choice.lean ====
section
/-! SUPPORT. The choice that ends an event, in the terms of Safety.lean: every event ends with the choices R51 calls for,
so a proof that a command completes cites `event_completes`, `request_completes` or `outcome_completes`. -/

namespace Sys2Proof.Machine

/-! ### The parts of a choice -/

/-- The entry with the tag of an entry of the queue is that entry, where tags are apart. -/
theorem State.entry_of_mem {v : State} (hn : TagsApart v) {e : Entry} (he : e ∈ v.queue.entries) :
    v.entry? e.tag = some e := by
  unfold State.entry?
  unfold TagsApart at hn
  generalize v.queue.entries = es at he hn
  induction es with
  | nil => cases he
  | cons a es ih =>
    rw [List.map_cons, List.nodup_cons] at hn
    rw [List.find?_cons]
    rcases List.mem_cons.1 he with rfl | h
    · simp
    · have : a.tag ≠ e.tag := fun hh => hn.1 (hh ▸ List.mem_map_of_mem h)
      have hb : (a.tag == e.tag) = false := by simpa using this
      rw [hb]
      exact ih h hn.2

/-- The mode serves MOVEs and SCANs in READY and MAINTENANCE. -/
theorem LibMode.serves_eq (m : LibMode) : m.serves = (m == .ready || m == .maintenance) := by cases m <;> rfl

/-- The eject candidates are those of `asksEject`. -/
theorem State.ejectFor_asks (u : State) (e : Entry) (n : Nat) :
    u.ejectFor e = some n ↔ u.asksEject e n = true := by
  unfold State.ejectFor State.asksEject Entry.sourceBay State.mayRun State.headsClaims
  cases hk : e.kind <;> rcases hs : e.source with _ | (m | m | m | _) <;>
    simp [LibMode.permits, LibMode.serves_eq]
  by_cases hm : m = n
  · subst hm
    simp [and_assoc, and_comm, and_left_comm]
  · simp [hm]

/-- The ejects asserted for the entries `es` of the queue. -/
def State.askedOf (u : State) (es : List Entry) : State :=
  { u with
    bays := u.bays.mapIdx fun n b =>
      match es.find? (u.asksEject · n) with
      | some e =>
        { b with
          state := .ejecting, eject := true, ejectTimer := some u.params.ejectLimit, waiting := some (e.tag, .eject) }
      | none => b,
    queue :=
      { u.queue with
        entries := u.queue.entries.map fun y =>
          if es.any (fun e => e.tag == y.tag && (u.ejectFor e).isSome) then
            { y with state := .waitingDrive .eject }
          else y } }

/-- A bay that none of the entries asks to eject is as before. -/
theorem State.askedOf_bay {u : State} {es : List Entry} {n : Nat} (h : es.find? (u.asksEject · n) = none) :
    (u.askedOf es).bay n = u.bay n := by
  unfold State.bay State.askedOf
  simp only [List.getD_eq_getElem?_getD, List.getElem?_mapIdx]
  cases u.bays[n]? with
  | none => rfl
  | some b => simp [h]

/-- A bay that an entry asks to eject is no longer LOADED. -/
theorem State.askedOf_bay_asked {u : State} {es : List Entry} {n : Nat} {e : Entry}
    (h : es.find? (u.asksEject · n) = some e) : ((u.askedOf es).bay n).state ≠ .loaded := by
  unfold State.bay State.askedOf
  simp only [List.getD_eq_getElem?_getD, List.getElem?_mapIdx]
  cases u.bays[n]? with
  | none => simp [Bay.noDrive]
  | some b => simp [h]

/-- An entry asks for the bay after the assertions of others exactly when it did before and none of them has it. -/
theorem State.askedOf_ejectFor (u : State) (es : List Entry) (e : Entry) (n : Nat) :
    (u.askedOf es).ejectFor e = some n
      ↔ u.ejectFor e = some n ∧ es.find? (u.asksEject · n) = none := by
  have hm : (u.askedOf es).mayRun e = u.mayRun e := rfl
  unfold State.ejectFor
  cases hb : e.sourceBay with
  | none => simp
  | some m =>
    simp only [hm]
    cases hf : es.find? (u.asksEject · m) with
    | none =>
      rw [State.askedOf_bay hf]
      constructor
      · intro h
        refine ⟨h, ?_⟩
        split at h
        · cases h
          exact hf
        · cases h
      · exact fun h => h.1
    | some x =>
      have := State.askedOf_bay_asked hf
      constructor
      · intro h
        simp [this] at h
      · rintro ⟨h, h'⟩
        split at h
        · cases h
          rw [hf] at h'
          cases h'
        · cases h

/-- Two entries that ask for one bay have one tag: that at the head of the bay's claims. -/
theorem State.asksEject_tag {u : State} {e o : Entry} {n : Nat} (he : u.asksEject e n = true)
    (ho : u.asksEject o n = true) : e.tag = o.tag := by
  have head : ∀ e : Entry, u.asksEject e n = true →
      (u.inv.place (.bay n)).claims.head? = some e.tag := by
    intro e he
    simp only [State.asksEject, Bool.and_eq_true, beq_iff_eq, List.all_eq_true] at he
    obtain ⟨⟨⟨⟨-, hs⟩, -⟩, hc⟩, -⟩ := he.1
    exact hc _ (by simp [Entry.names, hs])
  have h := (head e he).symm.trans (head o ho)
  exact Option.some.inj h

/-- The assertions of the entries `es`, one after another. -/
theorem State.asserts_askedOf (u : State) (es : List Entry) (hn : (es.map (·.tag)).Nodup) :
    es.foldl (fun a e => match a.ejectFor e with
      | some n => a.assertEject e n
      | none => a) u = u.askedOf es := by
  induction es using List.reverseRecOn with
  | nil =>
    have hb : (u.bays.mapIdx fun _ b => b) = u.bays := by
      apply List.ext_getElem?
      intro m
      simp
    simp [State.askedOf, hb]
  | append_singleton es e ih =>
    rw [List.map_append, List.nodup_append] at hn
    obtain ⟨h1, -, h3⟩ := hn
    have hne : ∀ o ∈ es, o.tag ≠ e.tag := fun o ho => h3 _ (List.mem_map_of_mem ho) _ (by simp)
    rw [List.foldl_append, ih h1]
    simp only [List.foldl_cons, List.foldl_nil]
    cases hu : u.ejectFor e with
    | none =>
      have ha : (u.askedOf es).ejectFor e = none := by
        cases hx : (u.askedOf es).ejectFor e with
        | none => rfl
        | some n =>
          have := ((u.askedOf_ejectFor es e n).1 hx).1
          rw [hu] at this
          cases this
      have hk : ∀ n, u.asksEject e n = false := fun n => by
        cases hx : u.asksEject e n with
        | false => rfl
        | true =>
          have := (u.ejectFor_asks e n).2 hx
          rw [hu] at this
          cases this
      rw [ha]
      simp [State.askedOf, List.find?_append, List.any_append, hk, hu]
    | some n =>
      have hk := (u.ejectFor_asks e n).1 hu
      have hf : es.find? (u.asksEject · n) = none := by
        rw [List.find?_eq_none]
        intro o ho hx
        exact hne o ho (State.asksEject_tag hx hk)
      have hs : e.source = some (.bay n) := by
        simp only [State.asksEject, Bool.and_eq_true, beq_iff_eq] at hk
        exact hk.1.1.1.1.2
      rw [(u.askedOf_ejectFor es e n).2 ⟨hu, hf⟩]
      have hb : (u.askedOf es).bays.modify n (fun b =>
            { b with
              state := .ejecting, eject := true, ejectTimer := some u.params.ejectLimit,
              waiting := some (e.tag, .eject) })
          = (u.askedOf (es ++ [e])).bays := by
        apply List.ext_getElem?
        intro m
        simp only [State.askedOf, List.getElem?_modify, List.getElem?_mapIdx, List.find?_append]
        cases u.bays[m]? with
        | none => simp
        | some b =>
          by_cases hm : n = m
          · subst hm
            simp [hf, hk]
          · have : u.asksEject e m = false := by
              cases hx : u.asksEject e m with
              | false => rfl
              | true =>
                have hx' := (u.ejectFor_asks e m).2 hx
                rw [hu] at hx'
                exact absurd (Option.some.inj hx') hm
            simp [hm, this]
      have hq : ((u.askedOf es).queue.entries.map fun y =>
            if y.tag = e.tag then { y with state := .waitingDrive .eject } else y)
          = (u.askedOf (es ++ [e])).queue.entries := by
        simp only [State.askedOf, List.map_map]
        apply List.map_congr_left
        intro y _
        simp only [Function.comp, List.any_append, List.any_cons, List.any_nil, Bool.or_false, hu,
          Option.isSome_some, Bool.and_true]
        by_cases hy : y.tag = e.tag
        · split <;> simp [hy]
        · have : (e.tag == y.tag) = false := by simpa using fun h => hy h.symm
          simp only [this, Bool.or_false]
          split <;> simp
      show State.modEntry (State.modBay (u.askedOf es) n _) e.tag _ = _
      unfold State.modEntry State.modBay
      rw [show (u.askedOf (es ++ [e])) = { u with
          bays := (u.askedOf (es ++ [e])).bays,
          queue := { u.queue with entries := (u.askedOf (es ++ [e])).queue.entries } } from rfl, ← hb, ← hq]
      rfl

/-- The eject assertions of a choice are `ejectsAsked`. -/
theorem State.assertEjects_asked {u : State} (hn : TagsApart u) : u.assertEjects = u.ejectsAsked := by
  refine (State.asserts_askedOf u _ hn).trans ?_
  unfold State.askedOf State.ejectsAsked
  dsimp only
  congr 2
  apply List.map_congr_left
  intro y hy
  have hany : (u.queue.entries.any fun e => e.tag == y.tag && (u.ejectFor e).isSome) = (u.ejectFor y).isSome := by
    rw [Bool.eq_iff_iff, List.any_eq_true]
    constructor
    · rintro ⟨e, he, h⟩
      simp only [Bool.and_eq_true, beq_iff_eq] at h
      exact List.inj_on_of_nodup_map hn he hy h.1 ▸ h.2
    · exact fun h => ⟨y, hy, by simp [h]⟩
  rw [hany]
  cases hu : u.ejectFor y with
  | none =>
    have hk : ∀ n, u.asksEject y n = false := fun n => by
      cases hx : u.asksEject y n with
      | false => rfl
      | true =>
        have := (u.ejectFor_asks y n).2 hx
        rw [hu] at this
        cases this
    simp only [hk, Option.isSome_none, Bool.false_eq_true, if_false]
    split <;> rfl
  | some n =>
    have hk := (u.ejectFor_asks y n).1 hu
    have hs : y.source = some (.bay n) := by
      have := hk
      simp only [State.asksEject, Bool.and_eq_true, beq_iff_eq] at this
      exact this.1.1.1.1.2
    simp [hs, hk]

/-! ### The job a choice begins -/

/-- A job that has the picker begins as `jobBegun` has it. -/
theorem State.startJob_begun (a : State) (j : Job) (proper : State)
    (hp : a.seq.picker ≠ .unhomed → a.seq.picker ≠ .parked →
      State.firstProper { a with seq := { a.seq with job := some j, picker := .busy } } = proper) :
    a.startJob j = a.jobBegun j proper := by
  unfold State.startJob State.jobBegun
  cases h : a.seq.picker
  case unhomed => exact State.beginStage_plain rfl _ (by decide) rfl
  case parked => exact State.beginStage_plain rfl _ (by decide) rfl
  all_goals exact hp (by rw [h]; decide) (by rw [h]; decide)

/-- The port audit begins as `portAuditBegun` has it. -/
theorem State.startAudit_begun (a : State) : a.startAudit = a.portAuditBegun :=
  State.startJob_begun _ _ _ fun _ _ => rfl

/-- A selected entry begins as `entryBegun` has it. -/
theorem State.startEntry_begun {a : State} {e : Entry} (hn : TagsApart a) (he : e ∈ a.queue.entries) :
    a.startEntry e = a.entryBegun e := by
  have hau : (fun g : ScanRange => a.auditStart false g.locs) = fun g => a.auditOf g.locs := by
    funext g
    cases g.locs with
    | nil => rfl
    | cons x r => cases x <;> simp [State.auditStart, State.auditOf, State.arrive, State.byOrders, State.callsForOrders]
  unfold State.startEntry State.entryBegun
  dsimp only
  rw [hau]
  refine State.startJob_begun _ _ _ fun _ _ => ?_
  let f : Entry → Entry := fun x => { x with state := .running, held := x.held || e.kind == .stow }
  let j : Job := Job.fresh (.entry e.tag) (e.scan.bind fun g => a.auditOf g.locs)
  let b : State := a.modEntry e.tag f
  let w : State := { b with seq := { b.seq with job := some j, picker := .busy } }
  have hjo : JobOf w j (f e) := ⟨rfl, State.modEntry_self (State.entry_of_mem hn he) fun _ => rfl⟩
  have hr : w.running? = some (f e) := State.running_of rfl hjo
  show State.firstProper w = _
  have first : State.firstProper w =
      match e.kind with
      | .move => w.beginStage (.travel .source)
      | .stow => w.beginStage (.travel .dest)
      | .scan => w.beginAudit := by
    unfold State.firstProper
    rw [hr]
    try rfl
  have scans (hk : e.kind = .scan) : State.firstProper w = w.beginAudit := by rw [first, hk]
  split
  · rename_i hk
    refine Eq.trans ?_ (State.beginStage_entryTravel rfl hjo).1
    rw [first, hk]
  · rename_i hk
    refine Eq.trans ?_ (State.beginStage_entryTravel rfl hjo).2
    rw [first, hk]
  · rename_i v hk ha
    split
    · rename_i hb
      rw [scans hk]
      unfold State.beginAudit
      rw [State.audit_of (s := w) rfl ha]
      simp only [hb, if_true]
      exact State.beginStage_scanTravel rfl ha
    · rename_i hb
      exact State.firstProper_passed (v := w) (j := j) (e := f e) rfl hjo hk ha (by simpa using hb)
  · rename_i hk ha
    have : w.audit? = none := ha
    rw [scans hk]
    unfold State.beginAudit
    rw [this]
    rfl

/-! ### The choices -/

/-- Tags stay apart while identities stay. -/
theorem Moved.apart {P : Tag → Prop} {u v : State} (h : Moved P u v) (hn : TagsApart u) : TagsApart v := by
  have key : ∀ {x y : List Entry}, List.Forall₂ (EntryMoved P) x y → y.map (·.tag) = x.map (·.tag) := by
    intro x y h
    induction h with
    | nil => rfl
    | cons h _ ih => rw [List.map_cons, List.map_cons, Entry.tag_of_identity h.identity, ih]
  unfold TagsApart
  rw [key h.entries]
  exact hn

/-- The choices the model makes are those of `Chosen`. -/
theorem State.choices_chosen (n : Nat) : ∀ u : State, TagsApart u → Chosen n u (State.choices n u) := by
  induction n with
  | zero => exact fun _ _ => trivial
  | succ n ih =>
    intro u hn
    refine ⟨fun h => State.choices_held _ _ h, fun hf => ?_⟩
    have hm := u.assertEjects_moved
    have ha := State.assertEjects_asked hn
    have hna : TagsApart u.ejectsAsked := ha ▸ hm.apart hn
    intro a b due
    have hb : a.cancelPark = b := rfl
    have hd : a.auditDue = true ↔ due := by
      simp only [State.auditDue, LibMode.serves_eq, Bool.and_eq_true, Bool.or_eq_true, beq_iff_eq,
        Bool.not_eq_true', due, and_assoc]
    have hc : State.choices (n + 1) u =
        if a.auditDue then b.startAudit
        else match a.queue.entries.find? fun e => a.eligible e with
          | none => a.startPark
          | some e => match a.startCheck e with
            | some r => State.choices n (b.entryDone e.tag r)
            | none => State.choices n (b.startEntry e) := by
      conv => lhs; unfold State.choices
      rw [if_pos hf, ha]
      rfl
    refine ⟨fun h => ?_, fun h hno => ?_, fun e h he => ⟨fun r hr => ?_, fun hr => ?_⟩⟩
    · rw [hc, if_pos (hd.2 h), State.startAudit_begun]
    · rw [hc, if_neg (fun q => h (hd.1 q)), show (a.queue.entries.find? fun e => a.eligible e) = none from hno]
      rfl
    · rw [hc, if_neg (fun q => h (hd.1 q)), show (a.queue.entries.find? fun e => a.eligible e) = some e from he]
      simp only [hr]
      exact ih _ ((State.entryDone_moved (P := (· = e.tag)) b rfl r none).apart hna)
    · rw [hc, if_neg (fun q => h (hd.1 q)), show (a.queue.entries.find? fun e => a.eligible e) = some e from he]
      simp only [hr]
      have hmem : e ∈ b.queue.entries := List.mem_of_find?_eq_some he
      rw [← State.startEntry_begun (a := b) hna hmem]
      exact ih _ ((State.startEntry_moved (P := (· = e.tag)) b e rfl).apart hna)

/-! ### The events that cause a choice -/

/-- R51's events are those of `CallsForChoice`. -/
theorem State.choiceDue_calls (s u : State) : State.choiceDue s u = true ↔ CallsForChoice s u := by
  have hmo : u.queue.entries.any (Entry.movedOn s.queue.entries) = true
      ↔ ∃ e ∈ u.queue.entries, (e.state = .done ∨ e.state = .queued)
        ∧ (∃ o ∈ s.queue.entries, o.tag = e.tag ∧ o.accNumber = e.accNumber)
        ∧ ∀ o ∈ s.queue.entries, o.tag = e.tag → o.accNumber = e.accNumber → o.state ≠ e.state := by
    simp [List.any_eq_true, Entry.movedOn, Entry.same, and_assoc]
  unfold State.choiceDue CallsForChoice
  simp only [Bool.or_eq_true, hmo, or_assoc]
  simp [and_comm]

/-- Every event ends with the choices its own effect calls for. -/
theorem State.settle_chosen (s u : State) : ChoiceMade s u (State.settle s u) := by
  refine ⟨State.choose s u, rfl, fun h => ?_, fun h hn => ?_⟩
  · unfold State.choose
    exact if_neg fun q => h ((State.choiceDue_calls s u).1 q)
  · unfold State.choose
    rw [if_pos ((State.choiceDue_calls s u).2 h)]
    exact State.choices_chosen _ u hn

/-! ### Commands that complete -/

/-- A command of a powered part completes with the effect its meaning gives it. -/
theorem State.event_completes {s u : State} {f : State → State} (hp : s.powered = true) (hu : f s = u) :
    ∃ t, s.event f = .next t ∧ Settled u t ∧ ChoiceMade s u t :=
  ⟨State.settle s u, by simp [State.event, hp, hu], s.settle_settled u, s.settle_chosen u⟩

/-- A command that completes with the effect a request's block gives it. -/
theorem State.request_completes {α : Type} {s u : State} {q : Byte} (h : s.takes q) (k : Byte)
    {body : List Byte} (hb : body.length ≤ Config.bodyMax) {parse : List Byte → Except Nat α} {b : α}
    (hp : parse body = .ok b) {act : State → α → State} (hu : act (s.accepted q) b = u) :
    ∃ t, s.request q k body parse act = .next t ∧ Settled u t ∧ ChoiceMade s u t :=
  ⟨State.settle s u, by rw [State.request_taken h k hb hp, hu], s.settle_settled u, s.settle_chosen u⟩

/-- An outcome that answers the outstanding order is taken. -/
theorem State.outcome_completes {s u : State} {n : Byte} {k : OrderKind} {j : Job} {st : Stage}
    (h : Awaits s n k j st) {o : MechOutcome} (ho : k.allows o = true) {go : State → State}
    (hu : go s.taken = u) :
    ∃ t, s.event (fun s => s.takeOutcome k n o go) = .next t ∧ Settled u t ∧ ChoiceMade s u t := by
  obtain ⟨hp, ⟨x, hx⟩, -, -⟩ := h
  refine State.event_completes hp ?_
  simpa [State.takeOutcome, State.answers, hx, ho, State.taken] using hu

end Sys2Proof.Machine
end

