-- ==== Sys2Proof/Laws/PerInstr.lean ====
section
/-! SUPPORT. Statements made of each command as syntax.  Shape: a well-formed request carries a BODY a frame can
have (R166), under a KIND of the catalogue unless it is UNKNOWN_REQUEST (R171, R176). -/

namespace Sys2Proof.Laws

open Sys2Proof.Machine

/-- What a well-formed request carries. -/
def Shape.Statement (i : Instr) : Prop :=
  i.wellFormed = true → ∀ r, requestOf i = some r →
    r.2.2.length ≤ Config.bodyMax
      ∧ isRequestKind r.2.1 = match i with
        | .unknownRequest _ _ _ => false
        | _ => true

/-- A command that is no request carries nothing. -/
theorem Shape.none_carried {i : Instr} (h : requestOf i = none) : Shape.Statement i := by
  intro _ r hr
  rw [h] at hr
  exact absurd hr nofun

theorem Shape.powerOn (straps : Straps) (pins : Pins) (stop : Bool) : Shape.Statement (.powerOn straps pins stop) := Shape.none_carried rfl

theorem Shape.describe (seq : Byte) (body : List Byte) : Shape.Statement (.describe seq body) := by
  intro h r hr
  cases hr
  exact ⟨of_decide_eq_true h, rfl⟩

theorem Shape.queryStatus (seq : Byte) (body : List Byte) : Shape.Statement (.queryStatus seq body) := by
  intro h r hr
  cases hr
  exact ⟨of_decide_eq_true h, rfl⟩

theorem Shape.queryLocations (seq : Byte) (body : List Byte) : Shape.Statement (.queryLocations seq body) := by
  intro h r hr
  cases hr
  exact ⟨of_decide_eq_true h, rfl⟩

theorem Shape.queryRequest (seq : Byte) (body : List Byte) : Shape.Statement (.queryRequest seq body) := by
  intro h r hr
  cases hr
  exact ⟨of_decide_eq_true h, rfl⟩

theorem Shape.queryMap (seq : Byte) (body : List Byte) : Shape.Statement (.queryMap seq body) := by
  intro h r hr
  cases hr
  exact ⟨of_decide_eq_true h, rfl⟩

theorem Shape.move (seq : Byte) (body : List Byte) : Shape.Statement (.move seq body) := by
  intro h r hr
  cases hr
  exact ⟨of_decide_eq_true h, rfl⟩

theorem Shape.scan (seq : Byte) (body : List Byte) : Shape.Statement (.scan seq body) := by
  intro h r hr
  cases hr
  exact ⟨of_decide_eq_true h, rfl⟩

theorem Shape.stow (seq : Byte) (body : List Byte) : Shape.Statement (.stow seq body) := by
  intro h r hr
  cases hr
  exact ⟨of_decide_eq_true h, rfl⟩

theorem Shape.confirm (seq : Byte) (body : List Byte) : Shape.Statement (.confirm seq body) := by
  intro h r hr
  cases hr
  exact ⟨of_decide_eq_true h, rfl⟩

theorem Shape.divert (seq : Byte) (body : List Byte) : Shape.Statement (.divert seq body) := by
  intro h r hr
  cases hr
  exact ⟨of_decide_eq_true h, rfl⟩

theorem Shape.returnHome (seq : Byte) (body : List Byte) : Shape.Statement (.returnHome seq body) := by
  intro h r hr
  cases hr
  exact ⟨of_decide_eq_true h, rfl⟩

theorem Shape.cancel (seq : Byte) (body : List Byte) : Shape.Statement (.cancel seq body) := by
  intro h r hr
  cases hr
  exact ⟨of_decide_eq_true h, rfl⟩

theorem Shape.abortAll (seq : Byte) (body : List Byte) : Shape.Statement (.abortAll seq body) := by
  intro h r hr
  cases hr
  exact ⟨of_decide_eq_true h, rfl⟩

theorem Shape.pause (seq : Byte) (body : List Byte) : Shape.Statement (.pause seq body) := by
  intro h r hr
  cases hr
  exact ⟨of_decide_eq_true h, rfl⟩

theorem Shape.resume (seq : Byte) (body : List Byte) : Shape.Statement (.resume seq body) := by
  intro h r hr
  cases hr
  exact ⟨of_decide_eq_true h, rfl⟩

theorem Shape.portUnlock (seq : Byte) (body : List Byte) : Shape.Statement (.portUnlock seq body) := by
  intro h r hr
  cases hr
  exact ⟨of_decide_eq_true h, rfl⟩

theorem Shape.portLock (seq : Byte) (body : List Byte) : Shape.Statement (.portLock seq body) := by
  intro h r hr
  cases hr
  exact ⟨of_decide_eq_true h, rfl⟩

theorem Shape.maintenanceEnter (seq : Byte) (body : List Byte) : Shape.Statement (.maintenanceEnter seq body) := by
  intro h r hr
  cases hr
  exact ⟨of_decide_eq_true h, rfl⟩

theorem Shape.maintenanceLeave (seq : Byte) (body : List Byte) : Shape.Statement (.maintenanceLeave seq body) := by
  intro h r hr
  cases hr
  exact ⟨of_decide_eq_true h, rfl⟩

theorem Shape.setExposed (seq : Byte) (body : List Byte) : Shape.Statement (.setExposed seq body) := by
  intro h r hr
  cases hr
  exact ⟨of_decide_eq_true h, rfl⟩

theorem Shape.retireSlot (seq : Byte) (body : List Byte) : Shape.Statement (.retireSlot seq body) := by
  intro h r hr
  cases hr
  exact ⟨of_decide_eq_true h, rfl⟩

theorem Shape.consolidate (seq : Byte) (body : List Byte) : Shape.Statement (.consolidate seq body) := by
  intro h r hr
  cases hr
  exact ⟨of_decide_eq_true h, rfl⟩

theorem Shape.setParameters (seq : Byte) (body : List Byte) : Shape.Statement (.setParameters seq body) := by
  intro h r hr
  cases hr
  exact ⟨of_decide_eq_true h, rfl⟩

theorem Shape.noticeAck (seq : Byte) (body : List Byte) : Shape.Statement (.noticeAck seq body) := by
  intro h r hr
  cases hr
  exact ⟨of_decide_eq_true h, rfl⟩

theorem Shape.recover (seq : Byte) (body : List Byte) : Shape.Statement (.recover seq body) := by
  intro h r hr
  cases hr
  exact ⟨of_decide_eq_true h, rfl⟩

theorem Shape.resetSoft (seq : Byte) (body : List Byte) (sense : Sense) : Shape.Statement (.resetSoft seq body sense) := by
  intro h r hr
  cases hr
  simp only [Instr.wellFormed, bodyOk, Bool.and_eq_true, decide_eq_true_eq] at h
  exact ⟨h.1, rfl⟩

theorem Shape.resetFull (seq : Byte) (body : List Byte) : Shape.Statement (.resetFull seq body) := by
  intro h r hr
  cases hr
  simp only [Instr.wellFormed, bodyOk, Bool.and_eq_true, decide_eq_true_eq] at h
  exact ⟨h.1, rfl⟩

theorem Shape.resetFullReload (sense : Sense) : Shape.Statement (.resetFullReload sense) := Shape.none_carried rfl

theorem Shape.unknownRequest (seq : Byte) (kind : Byte) (body : List Byte) : Shape.Statement (.unknownRequest seq kind body) := by
  intro h r hr
  cases hr
  simp only [Instr.wellFormed, bodyOk, Bool.and_eq_true, decide_eq_true_eq, Bool.not_eq_true'] at h
  exact h

theorem Shape.frameBadCheck (bytes : List Byte) : Shape.Statement (.frameBadCheck bytes) := Shape.none_carried rfl

theorem Shape.frameLengthExceeded (length : Word16) (following : List Byte) :
    Shape.Statement (.frameLengthExceeded length following) := Shape.none_carried rfl

theorem Shape.interByteGapTimeout (byte : Byte) (following : List Byte) :
    Shape.Statement (.interByteGapTimeout byte following) := Shape.none_carried rfl

theorem Shape.byteWithoutStopBit : Shape.Statement .byteWithoutStopBit := Shape.none_carried rfl

theorem Shape.frameSent : Shape.Statement .frameSent := Shape.none_carried rfl

theorem Shape.homeOutcome (number : Byte) (outcome : MechOutcome) (sense : Sense) : Shape.Statement (.homeOutcome number outcome sense) := Shape.none_carried rfl

theorem Shape.travelOutcome (number : Byte) (outcome : MechOutcome) (sense : Sense) : Shape.Statement (.travelOutcome number outcome sense) := Shape.none_carried rfl

theorem Shape.pickOutcome (number : Byte) (outcome : MechOutcome) (sense : Sense) : Shape.Statement (.pickOutcome number outcome sense) := Shape.none_carried rfl

theorem Shape.placeOutcome (number : Byte) (outcome : MechOutcome) : Shape.Statement (.placeOutcome number outcome) := Shape.none_carried rfl

theorem Shape.retractOutcome (number : Byte) (outcome : MechOutcome) (sense : Sense) : Shape.Statement (.retractOutcome number outcome sense) := Shape.none_carried rfl

theorem Shape.probeOutcome (number : Byte) (outcome : MechOutcome) : Shape.Statement (.probeOutcome number outcome) := Shape.none_carried rfl

theorem Shape.readOutcome (number : Byte) (outcome : MechOutcome) : Shape.Statement (.readOutcome number outcome) := Shape.none_carried rfl

theorem Shape.parkOutcome (number : Byte) (outcome : MechOutcome) : Shape.Statement (.parkOutcome number outcome) := Shape.none_carried rfl

theorem Shape.unparkOutcome (number : Byte) (outcome : MechOutcome) (sense : Sense) : Shape.Statement (.unparkOutcome number outcome sense) := Shape.none_carried rfl

theorem Shape.stageTimerExpiry (sense : Sense) : Shape.Statement (.stageTimerExpiry sense) := Shape.none_carried rfl

theorem Shape.parkTimerExpiry : Shape.Statement .parkTimerExpiry := Shape.none_carried rfl

theorem Shape.confirmTimerExpiry : Shape.Statement .confirmTimerExpiry := Shape.none_carried rfl

theorem Shape.loadTimerExpiry (bay : Fin 4) : Shape.Statement (.loadTimerExpiry bay) := Shape.none_carried rfl

theorem Shape.ejectTimerExpiry (bay : Fin 4) : Shape.Statement (.ejectTimerExpiry bay) := Shape.none_carried rfl

theorem Shape.repeatTimerExpiry : Shape.Statement .repeatTimerExpiry := Shape.none_carried rfl

theorem Shape.presentRising (bay : Fin 4) (lines : DriveLines) : Shape.Statement (.presentRising bay lines) := Shape.none_carried rfl

theorem Shape.presentFalling (bay : Fin 4) : Shape.Statement (.presentFalling bay) := Shape.none_carried rfl

theorem Shape.acceptedRising (bay : Fin 4) : Shape.Statement (.acceptedRising bay) := Shape.none_carried rfl

theorem Shape.ejectReadyRising (bay : Fin 4) : Shape.Statement (.ejectReadyRising bay) := Shape.none_carried rfl

theorem Shape.cartridgeFalling (bay : Fin 4) (accepted : Bool) : Shape.Statement (.cartridgeFalling bay accepted) := Shape.none_carried rfl

theorem Shape.doorOpening : Shape.Statement .doorOpening := Shape.none_carried rfl

theorem Shape.doorClosing : Shape.Statement .doorClosing := Shape.none_carried rfl

theorem Shape.emergencyStopAsserted (sense : Sense) : Shape.Statement (.emergencyStopAsserted sense) := Shape.none_carried rfl

theorem Shape.emergencyStopReleased : Shape.Statement .emergencyStopReleased := Shape.none_carried rfl

theorem Shape.bankWriteComplete (ok : Bool) : Shape.Statement (.bankWriteComplete ok) := Shape.none_carried rfl

theorem Shape.syncReceived (following : List Byte) : Shape.Statement (.syncReceived following) := Shape.none_carried rfl

theorem Shape.powerLoss : Shape.Statement .powerLoss := Shape.none_carried rfl

end Sys2Proof.Laws
end

