-- ==== Sys2Proof/Tests/Slice0.lean ====
section
/-! SUPPORT. Tests: the well-formedness smoke, a few steps on a small state, and for each statement of
Certificates/Slice0/Obligations.lean with hypotheses a witness that they can be met (`witness_<statement>`, one
conjunct for each clause). -/

namespace Sys2Proof.Tests

open Sys2Proof.Machine

-- One test at a time: tests elaborated side by side ask for more threads than the check's limit allows.
set_option Elab.async false

/-! ### Well-formedness: each check refuses an ill-formed command -/

/-- A body one byte too long. -/
def long : List Byte := List.replicate 241 0x00#8

def lines : DriveLines := ⟨false, false, false⟩
def still : Sense := ⟨⟨lines, lines, lines, lines⟩, false⟩
def sensed : Sense := ⟨⟨lines, lines, lines, lines⟩, true⟩

/-- The bytes after SYNC of a PAUSE frame with SEQ 1 whose check is good. -/
def pauseBytes : List Byte := (Frame.bytes ⟨0x01#8, 0x0E#8, []⟩).drop 1

/-- The same with the last CHECK byte changed. -/
def spoiltBytes : List Byte := pauseBytes.dropLast ++ [pauseBytes.getLastD 0 + 1]

theorem test_wellFormed_bodyTooLong :
    ([.describe 0 long, .queryStatus 0 long, .queryLocations 0 long, .queryRequest 0 long, .queryMap 0 long,
      .move 0 long, .scan 0 long, .stow 0 long, .confirm 0 long, .divert 0 long, .returnHome 0 long,
      .cancel 0 long, .abortAll 0 long, .pause 0 long, .resume 0 long, .portUnlock 0 long, .portLock 0 long,
      .maintenanceEnter 0 long, .maintenanceLeave 0 long, .setExposed 0 long, .retireSlot 0 long,
      .consolidate 0 long, .setParameters 0 long, .noticeAck 0 long, .recover 0 long,
      .resetSoft 0 long still, .resetFull 0 long, .unknownRequest 0 0x1B#8 long] : List Instr).all
        (fun i => !i.wellFormed) = true := by decide +kernel

theorem test_wellFormed_bodyOfGreatestLength :
    (Instr.move 0 (List.replicate 240 0x00#8)).wellFormed = true := by decide +kernel

theorem test_wellFormed_resetLevels :
    (Instr.resetSoft 0 [0x01#8] still).wellFormed = false ∧ (Instr.resetFull 0 [0x00#8]).wellFormed = false
      ∧ (Instr.resetSoft 0 [0x00#8] still).wellFormed = true ∧ (Instr.resetFull 0 [0x01#8]).wellFormed = true := by
  decide +kernel

theorem test_wellFormed_catalogueKind :
    (Instr.unknownRequest 0 0x01#8 []).wellFormed = false ∧ (Instr.unknownRequest 0 0x1A#8 []).wellFormed = false
      ∧ (Instr.unknownRequest 0 0x00#8 []).wellFormed = true
      ∧ (Instr.unknownRequest 0 0x1B#8 []).wellFormed = true := by
  decide +kernel

theorem test_wellFormed_badCheck :
    (Instr.frameBadCheck pauseBytes).wellFormed = false ∧ (Instr.frameBadCheck [0x00#8]).wellFormed = false
      ∧ (Instr.frameBadCheck spoiltBytes).wellFormed = true := by
  decide +kernel

theorem test_wellFormed_lengthExceeded :
    (Instr.frameLengthExceeded 240).wellFormed = false ∧ (Instr.frameLengthExceeded 241).wellFormed = true := by
  decide +kernel

/-- A run of bytes in which a good frame ends is that frame's request, and no discard's operand. -/
theorem test_wellFormed_following :
    (Instr.frameLengthExceeded 241 (0xC3#8 :: pauseBytes)).wellFormed = false
      ∧ (Instr.frameLengthExceeded 241 (0xC3#8 :: spoiltBytes)).wellFormed = true
      ∧ (Instr.interByteGapTimeout 0xC3#8 pauseBytes).wellFormed = false
      ∧ (Instr.interByteGapTimeout 0xC3#8 spoiltBytes).wellFormed = true := by decide +kernel

/-- Every byte joins the frame: the sync values of this LENGTH 5 frame are its SEQ and KIND. -/
theorem test_receiverKeepsEveryByte :
    Receiver.takeAll .hunting [0xC3#8, 0x00#8, 0x05#8, 0xC3#8, 0xC3#8]
        = some (.assembling [0xC3#8, 0x00#8, 0x05#8, 0xC3#8, 0xC3#8])
      ∧ Receiver.takeAll .hunting [0xC3#8, 0xC3#8, 0x05#8] = some (.assembling [0xC3#8, 0x05#8])
      ∧ Receiver.takeAll .hunting (0xC3#8 :: pauseBytes) = none
      ∧ Receiver.takeAll .hunting (0xC3#8 :: spoiltBytes) = some .hunting := by decide +kernel

/-- The check value of the digits 1 to 9 under R167's generator, start and bit order. -/
theorem test_checkValue :
    crc16 [0x31#8, 0x32#8, 0x33#8, 0x34#8, 0x35#8, 0x36#8, 0x37#8, 0x38#8, 0x39#8] = 0x29B1#16 := by
  decide +kernel

/-! ### A small state: READY, the picker IDLE, slot 0 OCCUPIED, everything else EMPTY -/

/-- A location that holds a cartridge labelled A. -/
def holdsA : PlaceRec := ⟨.occupied, some [0x41#8], false, []⟩

/-- A bay with a drive in a state. -/
def bayIn (st : BayState) : Bay := { Bay.noDrive with state := st }

def calm : State :=
  { State.reset with
    link := Link.atPower, seq := ⟨none, .idle, none, none⟩, mech := Mech.atPower,
    inv :=
      { slots := holdsA :: List.replicate 47 PlaceRec.vacant, bays := List.replicate 2 PlaceRec.vacant,
        cells := List.replicate 6 PlaceRec.vacant, gripper := PlaceRec.vacant },
    store := { State.reset.store with commit := none }, bays := [bayIn .empty, bayIn .absent],
    port := ⟨.secured, true, .noMark⟩, notices := Notices.atPower, ctl := ⟨.ready, .ready, false⟩ }

theorem calm_takes (q : Byte) : calm.takes q := ⟨rfl, rfl, rfl, nofun⟩

/-- The small state in another mode. -/
def inMode (m : LibMode) : State := { calm with ctl := { calm.ctl with mode := m } }

/-- The small state with entries. -/
def withEntries (es : List Entry) : State := { calm with queue := { calm.queue with entries := es } }

/-- A MOVE from slot 0 to slot 1. -/
def mv (st : EntryState) : Entry :=
  { Entry.fresh 7 .move with source := some (.slot 0), dest := some (.slot 1), state := st }

/-- An entry in another state. -/
def inState (e : Entry) (st : EntryState) : Entry := { e with state := st }

/-- A SCAN of slots 0 and 1. -/
def sc : Entry :=
  { Entry.fresh 8 .scan with scan := some ⟨.physical, 0, 1, [.slot 0, .slot 1]⟩, state := .running }

/-- A STOW into slot 1. -/
def sw : Entry := { Entry.fresh 9 .stow with dest := some (.slot 1), state := .running }

/-- Twelve QUEUED MOVEs less one. -/
def eleven : List Entry := (List.range 11).map fun n => { mv .queued with tag := byteOf (20 + n) }

/-- The job of an entry at a stage, with two retries. -/
def jobAt (e : Entry) (st : Stage) : Job :=
  { Job.fresh (.entry e.tag) none with stage := some st, keptRetries := 2 }

/-- The small state with one entry, its job at a stage and the stage's order, number 5, outstanding. -/
def atStage (e : Entry) (j : Job) (k : OrderKind) : State :=
  { withEntries [e] with
    seq := ⟨some j, .busy, none, none⟩, mech := ⟨some ⟨5, k, none⟩, 5, some 5000⟩ }

theorem atStage_awaits (e : Entry) (j : Job) (k : OrderKind) (st : Stage) (h : j.stage = some st) :
    Awaits (atStage e j k) 5 k j st := ⟨rfl, ⟨none, rfl⟩, rfl, h⟩

/-- The small state with an entry that waits for the host's answer. -/
def handedOff : State :=
  { withEntries [mv .awaitingConfirm] with
    seq := ⟨some { jobAt (mv .awaitingConfirm) .pick with stage := none }, .busy, none, some 60⟩ }

/-- The answer of a command, where it is a next state. -/
def after (c : Instr) (s : State) : Option State :=
  match exec c s with
  | .next t => some t
  | _ => none

/-! ### Steps -/

/-- MOVE of logical slot 0 to logical slot 1 with tag 7, accepted, selected and sent on its way in one event. -/
theorem test_moveRuns :
    (after (.move 1 [0x07#8, 0x00#8, 0x00#8, 0x00#8, 0x00#8, 0x01#8, 0x00#8]) calm).map
        (fun t => (t.mech.outstanding, t.seq.picker, t.queue.entries.map (·.state), t.link.cache.map (·.body)))
      = some (some ⟨1, .travel, some (.slot 0)⟩, .busy, [.running],
          some [0x06#8, 0x01#8, 0x00#8, 0x00#8, 0x00#8, 0x01#8]) := by decide +kernel

/-- The same request with a body cut short is refused BAD_FORMAT at the offset of its end. -/
theorem test_moveMalformed :
    (after (.move 1 [0x07#8, 0x00#8, 0x00#8]) calm).map (fun t => t.link.cache.map (·.body))
      = some (some [0x06#8, 0x10#8, 0x03#8]) := by decide +kernel

/-- A SCAN of slots 0 and 1 begins with TRAVEL to slot 0. -/
theorem test_scanRuns :
    (after (.scan 1 [0x08#8, 0x01#8, 0x00#8, 0x01#8]) calm).map (fun t => t.mech.outstanding)
      = some (some ⟨1, .travel, some (.slot 0)⟩) := by decide +kernel

/-- STOW is refused outside HOLDING. -/
theorem test_stowNotHolding :
    (after (.stow 1 [0x09#8, 0x00#8, 0x01#8]) calm).map (fun t => t.link.cache.map (·.body))
      = some (some [0x08#8, Status.notHolding.code]) := by decide +kernel

/-- REACHED at the source sends PICK; HELD takes the cartridge and READs its label. -/
theorem test_pickHeld :
    (after (.pickOutcome 5 .held sensed) (atStage (mv .running) (jobAt (mv .running) .pick) .pick)).map
        (fun t => (t.inv.gripper.holds, (t.inv.place (.slot 0)).occ, t.mech.outstanding))
      = some (some [0x41#8], .empty, some ⟨6, .read, none⟩) := by decide +kernel

/-- PLACED puts the cartridge down; RETRACT follows. -/
theorem test_placePlaced :
    (after (.placeOutcome 5 .placed)
        { atStage (mv .running) (jobAt (mv .running) .place) .place with
          inv := { calm.inv with gripper := holdsA } }).map
        (fun t => (t.inv.gripper.occ, (t.inv.place (.slot 1)).holds, t.mech.outstanding.map (·.kind)))
      = some (.empty, some [0x41#8], some .retract) := by decide +kernel

/-- A door opened on a SECURED port is DOOR_FORCED, and its cells are not known. -/
theorem test_doorForced :
    (after .doorOpening calm).map
        (fun t => (t.port, t.inv.cells.map (·.occ), t.notices.queue.map (·.body)))
      = some (⟨.opened, false, .noMark⟩, List.replicate 6 .unknown,
          [.attention (.doorForced .secured false [])]) := by decide +kernel

/-- RETIRE_SLOT of slot 1 in MAINTENANCE: the first free spare takes its logical number, a commit starts, and the
reply waits. -/
theorem test_retireSlot :
    (after (.retireSlot 1 [0x01#8]) (inMode .maintenance)).map
        (fun t => (t.map.grown, t.store.commit.map (·.target), t.link.replyPending, t.link.cache))
      = some ([⟨1, some 1, some 44⟩], some .bank0, true, none) := by decide +kernel

/-- An emergency stop halts the job and ends its entry. -/
theorem test_emergencyStop :
    (after (.emergencyStopAsserted still) (atStage (mv .running) (jobAt (mv .running) .pick) .pick)).map
        (fun t => ((t.ctl.mode, t.seq), (t.inv.place (.slot 0)).occ, t.queue.entries.map (·.result)))
      = some ((.stopped, ⟨none, .unhomed, none, none⟩), .unknown, [some .stopped]) := by decide +kernel

/-- An empty queue of commands idles. -/
theorem test_stepIdles : step calm = .next calm := rfl

/-! ### Witnesses: the block, power and the link -/

theorem witness_StepTakesTheFrontCommand :
    calm.pending = [] ∧ (calm.withPending [.doorOpening]).pending = .doorOpening :: [] := ⟨rfl, rfl⟩

theorem witness_EveryCommandAnswers :
    calm.dark.powered = false ∧ ∀ a b d, Instr.doorOpening ≠ .powerOn a b d :=
  ⟨rfl, fun _ _ _ h => Instr.noConfusion h⟩

/-- A valid bank of generation 5 over the default map of 48 slots. -/
def goodBank : Bank := ⟨⟨5, [], [], 44, Params.default⟩, true⟩

/-- A dark part with a valid bank 1. -/
def darkWithMap : State :=
  { calm.dark with store := { calm.dark.store with bank1 := goodBank } }

theorem witness_MapAcrossALossOfPower :
    State.reset.powered = true
      ∧ State.reset.store.commit.map (·.target) = some .bank0
      ∧ (∀ c, State.reset.store.commit = some c → c.target ≠ .bank1)
      ∧ darkWithMap.powered = false ∧ darkWithMap.store.loadBank = some .bank1
      ∧ SlotMap.adjusted 48 ⟨[], [], 44, List.replicate 48 0⟩ = none
      ∧ SlotMap.adjusted 24 ⟨[], [], 44, List.replicate 24 0⟩ = some ⟨[], [], 24, List.replicate 24 0⟩
      ∧ SlotMap.adjusted 24 ⟨List.range 12, [], 13, []⟩ = some ⟨List.range 12, [], 12, []⟩
      ∧ SlotMap.adjusted 24 ⟨List.range 13, [], 1, []⟩ = some ⟨[], [], 20, []⟩
      ∧ calm.dark.store.loadBank = none := by
  refine ⟨rfl, rfl, ?_, rfl, by decide +kernel, by decide +kernel, by decide +kernel, by decide +kernel,
    by decide +kernel, by decide +kernel⟩
  rintro c h
  cases h
  exact nofun

/-- Banks that are valid, one generation apart either way round, and a bank that is not. -/
theorem witness_loadBank :
    goodBank.checkMatches = true ∧ goodBank.image.base.Pairwise (· < ·) ∧ goodBank.image.base.length ≤ 24
      ∧ goodBank.image.grown.length ≤ 16 ∧ (goodBank.image.grown.map (·.slot)).Nodup
      ∧ (∀ g ∈ goodBank.image.grown, g.slot ∉ goodBank.image.base)
      ∧ (goodBank.image.grown.filterMap (·.substitute)).Nodup
      ∧ 1 ≤ goodBank.image.exposed ∧ goodBank.image.params.inRange = true
      ∧ ¬ 1 ≤ Bank.blank.image.exposed
      ∧ (goodBank.image.generation - (4 : Word32)).toNat = 1
      ∧ 2147483647 < (goodBank.image.generation - (6 : Word32)).toNat := by decide +kernel

/-- A frame with SEQ 4 that was answered last. -/
def cached : Frame := replyFrame 0x04#8 0x0E#8 .ok []

/-- The small state after SEQ 4, with its reply pending or not. -/
def afterSeq (pending : Bool) : State :=
  { calm with link := { Link.atPower with lastSeq := some 0x04#8, cache := some cached, replyPending := pending } }

theorem witness_LinkTakesGoodFrames :
    (∀ q, requestOf (.pause q []) = some (q, 0x0E#8, [])) ∧ (Instr.pause 4 []).wellFormed = true
      ∧ (afterSeq false).powered = true ∧ (afterSeq false).link.resetWait = none
      ∧ ((afterSeq false).link.lastSeq = some 4 ∧ (afterSeq false).link.replyPending = false
          ∧ (afterSeq false).link.cache = some cached)
      ∧ ((afterSeq true).link.lastSeq = some 4 ∧ (afterSeq true).link.replyPending = true)
      ∧ ((afterSeq true).link.lastSeq ≠ some 5 ∧ (afterSeq true).link.replyPending = true)
      ∧ ((afterSeq false).link.lastSeq ≠ some 5 ∧ (afterSeq false).link.replyPending = false)
      ∧ (calm.link.lastSeq ≠ some 0 ∧ calm.link.replyPending = false) :=
  ⟨fun _ => rfl, by decide, rfl, rfl, by decide, by decide, by decide, by decide, by decide⟩

theorem witness_UnknownKindAnswered :
    isRequestKind 0x00#8 = false ∧ isRequestKind 0x1B#8 = false
      ∧ (List.replicate 240 0x00#8 : List Byte).length ≤ Config.bodyMax ∧ calm.takes 0 := by decide +kernel

theorem witness_RefusalChangesOnlyTheLink :
    requestOf (.recover 1 []) = some (1, 0x19#8, []) ∧ (Instr.recover 1 []).wellFormed = true ∧ calm.takes 1
      ∧ (after (.recover 1 []) calm).map (·.link.cache) = some (some (replyFrame 1 0x19#8 .modeRefused []))
      ∧ Status.modeRefused.refusal = true := by decide +kernel

theorem witness_ReceiverAndTransmitterEvents :
    (([0xC3#8] : List Byte).length ≠ 2 ∧ completeFrame ([0x00#8] : List Byte) = false)
      ∧ nat16 0x00#8 0xF0#8 ≤ Config.bodyMax ∧ Config.bodyMax < nat16 0x00#8 0xF1#8
      ∧ Config.bodyMax < nat16 0xC3#8 0xC3#8
      ∧ completeFrame spoiltBytes = true ∧ goodCheck spoiltBytes = false
      ∧ calm.powered = true ∧ calm.link.receiver.takeAll [0xC3#8, 0x00#8] = some (.assembling [0xC3#8, 0x00#8])
      ∧ Receiver.takeAll .hunting [0x00#8, 0xF1#8, 0xC3#8] = some (.assembling [0xC3#8])
      ∧ (calm.receive (.assembling [0xC3#8])).link.receiver = .assembling [0xC3#8]
      ∧ Receiver.takeAll .hunting [0x01#8] = some .hunting
      ∧ State.reset.link.sending = some (.notice Notice.defaultedAtStart) := by decide +kernel

/-- A link whose transmitter is idle with a reply and a notice frame waiting, with the frame alone, and with nothing. -/
theorem witness_startNext :
    (let l : Link := { Link.atPower with replies := [⟨⟨1, 0x80#8, []⟩, false⟩], noticeFrames := [Notice.modeAtStart] };
      l.sending = none ∧ l.startNext.replies = [] ∧ l.startNext.noticeFrames = [Notice.modeAtStart])
      ∧ (let l : Link := { Link.atPower with noticeFrames := [Notice.modeAtStart] };
        l.replies = [] ∧ l.startNext.sending = some (.notice Notice.modeAtStart))
      ∧ Link.atPower.startNext = Link.atPower := by decide +kernel

/-- RESET FULL has been taken with SEQ 4 and its reply is being sent. -/
def resetting (reloaded : Bool) : State :=
  { calm with
    link :=
      { Link.atPower with
        lastSeq := some 0x04#8, sending := some (.reply ⟨cached, true⟩),
        resetWait := some ⟨false, reloaded⟩ } }

theorem witness_ResetIntervalOfTheLink :
    requestOf (.pause 5 []) = some (5, 0x0E#8, []) ∧ (Instr.pause 5 []).wellFormed = true
      ∧ (∀ r, (resetting r).powered = true ∧ (resetting r).link.resetWait = some ⟨false, r⟩
        ∧ (resetting r).link.sending = some (.reply ⟨cached, true⟩)) := by decide +kernel

theorem witness_FramesCheckGood :
    (Frame.mk 0 0x80#8 (List.replicate 240 0x00#8)).body.length ≤ Config.bodyMax := by decide +kernel

/-- The frames of a MOVE's completion, of MODE_CHANGED with cause RESET and of a summary, byte by byte. -/
theorem test_noticeFrames :
    Notice.frame ⟨0x0102#16, 3, .completionMove 7 .move 0x01020304#32 .ok (some ⟨.slot 5, some 4⟩) (some ⟨.cell 2, none⟩)
        (some [0x41#8]) none⟩
        = ⟨0x00#8, 0x90#8, [0x01#8, 0x02#8, 0x03#8, 0x07#8, 0x06#8, 0x01#8, 0x02#8, 0x03#8, 0x04#8, 0x00#8, 0x01#8,
            0x05#8, 0x04#8, 0x03#8, 0x02#8, 0xFF#8, 0x01#8, 0x41#8, 0x00#8]⟩
      ∧ Notice.frame ⟨9, 1, .attention (.modeChanged (some .ready) .initializing none .reset none)⟩
        = ⟨0x00#8, 0x92#8, [0x00#8, 0x09#8, 0x01#8, 0x00#8, 0x01#8, 0x00#8, 0xFF#8, 0x09#8, 0x00#8, 0x00#8]⟩
      ∧ Notice.frame ⟨9, 1, .summary [.doorForced, .duplicateLabel]⟩
        = ⟨0x00#8, 0x93#8, [0x00#8, 0x09#8, 0x01#8, 0x02#8, 0x03#8, 0x0F#8]⟩ := by decide +kernel

/-! ### Witnesses: requests -/

theorem witness_QueriesReport :
    calm.takes 1 ∧ calm.entry? 7 = none ∧ (withEntries [mv .done]).takes 1
      ∧ (withEntries [mv .done]).entry? 7 = some (mv .done) := by decide +kernel

/-- A SCAN that was stopped at bay 0. -/
def scanDone : Entry :=
  { sc with state := .done, result := some .aborted, counts := some ⟨2, 1, 0, some (.bay 0)⟩, noticeQueued := true }

/-- A RUNNING MOVE at its PICK, the SCAN stopped, and the return path's TRAVEL. -/
theorem witness_QueriesReportStages :
    (atStage (mv .running) (jobAt (mv .running) .pick) .pick).entry? 7 = some (mv .running)
      ∧ (atStage (mv .running) (jobAt (mv .running) .pick) .pick).seq.job = some (jobAt (mv .running) .pick)
      ∧ (jobAt (mv .running) .pick).kind = .entry 7 ∧ (withEntries [scanDone]).entry? 8 = some scanDone := by
  decide +kernel

theorem test_queryRunning :
    (after (.queryRequest 1 [0x07#8])
        (atStage (mv .running) { jobAt (mv .running) (.travel .source) with onReturn := some .returned } .travel)).map
        (fun t => t.link.cache.map fun f => (f.body.drop 8).take 7)
      = some (some [0x03#8, 0xFF#8, 0x02#8, 0x01#8, 0xFF#8, 0xFF#8, 0xFF#8]) := by decide +kernel

theorem test_queryScanDone :
    (after (.queryRequest 1 [0x08#8]) (withEntries [scanDone])).map (fun t => t.link.cache.map fun f => f.body.drop 23)
      = some (some [0x01#8, 0x00#8, 0x01#8, 0x02#8, 0x00#8, 0x0D#8, 0x02#8, 0x01#8, 0x00#8, 0x02#8, 0x00#8, 0xFF#8,
          0x01#8, 0x00#8]) := by decide +kernel

theorem witness_QueryLocationsAnswers :
    calm.takes 1
      ∧ ([⟨.logical, 0, 43⟩, ⟨.physical, 47, 47⟩, ⟨.bay, 0, 1⟩, ⟨.port, 0, 5⟩, ⟨.gripper, 0, 0⟩] : List RangeBody).all
        (fun b => b.wellFormed && calm.rangeRefusal b == none) = true
      ∧ ([⟨.label, 0, 0⟩, ⟨.physical, 1, 0⟩, ⟨.logical, 0, 44⟩, ⟨.physical, 0, 48⟩, ⟨.bay, 0, 2⟩, ⟨.port, 0, 6⟩,
          ⟨.gripper, 0, 1⟩] : List RangeBody).map (fun b => (b.wellFormed, calm.rangeRefusal b))
        = [(true, some .referenceNotAllowed), (true, some .outOfRange), (true, some .noSuchLocation),
          (true, some .noSuchLocation), (true, some .driveAbsent), (true, some .noSuchLocation),
          (true, some .noSuchLocation)]
      ∧ calm.map.physOf 48 43 = some 43 ∧ calm.map.physOf 48 44 = none := by decide +kernel

/-- The small state with the label A in slot 1 too, both flagged. -/
def twice : State :=
  { calm with
    inv := { calm.inv with slots := [{ holdsA with dup := true }, { holdsA with dup := true }] } }

theorem witness_ReferencesResolve :
    (∃ x ∈ twice.inv.locations, (twice.inv.place x).holds = some [0x41#8])
      ∧ (∀ x ∈ twice.inv.locations, (twice.inv.place x).holds = some [0x41#8] → (twice.inv.place x).dup = true)
      ∧ Loc.slot 0 ∈ calm.inv.locations ∧ (calm.inv.place (.slot 0)).holds = some [0x41#8]
      ∧ (calm.inv.place (.slot 0)).dup = false
      ∧ (∀ y ∈ calm.inv.locations, (calm.inv.place y).holds = some [0x41#8] → y = .slot 0)
      ∧ (∀ x ∈ calm.inv.locations, (calm.inv.place x).holds ≠ some [0x42#8])
      ∧ ∀ l p, calm.map.physOf calm.nPhys l = some p → l < 44 ∧ p = l := by
  refine ⟨by decide +kernel, by decide +kernel, by decide +kernel, by decide +kernel, by decide +kernel,
    by decide +kernel, by decide +kernel, fun l p h => ?_⟩
  have hc : calm.map.current calm.nPhys = (List.range 44).map some := by decide +kernel
  rw [SlotMap.physOf, hc] at h
  by_cases hl : l < 44
  · refine ⟨hl, ?_⟩
    simpa [List.getD, List.getElem?_map, List.getElem?_range hl, eq_comm] using h
  · simp [List.getD, hl] at h

/-- A MOVE body from logical slot 0. -/
def moveTo (t : Tag) (d : Ref) : MoveBody := ⟨t, false, false, .logical 0, d, none⟩

/-- The small state with slot 1 retired and slot 2 suspect. -/
def worn : State :=
  { calm with map := { calm.map.retire 48 1 with faults := (List.replicate 48 0).set 2 3 } }

/-- The offset at which a body is refused. -/
def stopsAt {α : Type} : Except Nat α → Option Nat
  | .error o => some o
  | .ok _ => none

/-- Bodies too short, too long and with a field at fault, where the clauses on offsets meet. -/
theorem witness_BodiesAreReadAsLaidOut :
    (moveTo 7 (.logical 1)).wellFormed = true ∧ (moveTo 7 (.logical 1)).bytes.length = 7
      ∧ (Ref.label [0x41#8]).wellFormed = true ∧ (⟨.physical, 0, 1⟩ : RangeBody).wellFormed = true
      ∧ stopsAt (parseMove ((moveTo 7 (.logical 1)).bytes.take 6)) = some 6
      ∧ stopsAt (parseMove ((moveTo 7 (.logical 1)).bytes ++ [0x00#8])) = some 7
      ∧ stopsAt (parseMove [0x07#8, 0x04#8]) = some 1 ∧ stopsAt (parseMove [0x07#8, 0x03#8, 0x06#8]) = some 2
      ∧ stopsAt (parseMove [0x07#8, 0x03#8, 0x04#8, 0x00#8]) = some 3
      ∧ stopsAt (parseMove [0x07#8, 0x03#8, 0x04#8, 0x11#8]) = some 3
      ∧ stopsAt (parseMove [0x07#8, 0x03#8, 0x04#8, 0x10#8, 0x20#8, 0x7F#8]) = some 5
      ∧ stopsAt (parseMove [0x07#8, 0x03#8, 0x00#8, 0x00#8, 0x06#8]) = some 4
      ∧ stopsAt (parseMove [0x07#8, 0x03#8, 0x00#8, 0x00#8, 0x00#8, 0x01#8, 0x01#8, 0x1F#8]) = some 7
      ∧ stopsAt (parseScan [0x07#8, 0x05#8]) = some 1 ∧ stopsAt (parseTagRef [0x07#8, 0x06#8]) = some 1
      ∧ stopsAt (parseRange [0x06#8]) = some 0 ∧ stopsAt (parseAbort [0x02#8]) = some 0
      ∧ stopsAt (parseReset [0x02#8, 0x00#8]) = some 0 := by decide +kernel

/-- What a chain of checks refuses with. -/
def refusalOf {α : Type} : Except Status α → Option Status
  | .error st => some st
  | .ok _ => none

/-- What `tryMove` refuses with. -/
def moveRefusal (s : State) (b : MoveBody) : Option Status := refusalOf (s.tryMove b)

theorem witness_EntryRequestChecks :
    (calm.takes 1 ∧ (moveTo 7 (.logical 1)).wellFormed = true
      ∧ stopsAt (parseMove [0x07#8]) = some 1 ∧ stopsAt (parseScan [0x07#8]) = some 1
      ∧ stopsAt (parseTagRef [0x07#8]) = some 1)
    ∧ (moveRefusal (inMode .faulted) (moveTo 7 (.logical 1)) = some .modeRefused
      ∧ moveRefusal (withEntries [mv .done]) (moveTo 7 (.logical 1)) = some .tagInUse
      ∧ moveRefusal (withEntries (mv .done :: eleven)) (moveTo 0x11#8 (.logical 1)) = some .queueFull
      ∧ moveRefusal calm { moveTo 7 (.logical 1) with source := .logical 44 } = some .noSuchLocation
      ∧ moveRefusal calm (moveTo 7 (.physical 1)) = some .referenceNotAllowed
      ∧ moveRefusal calm (moveTo 7 (.logical 0)) = some .sameLocation
      ∧ moveRefusal { worn with ctl := ⟨.maintenance, .ready, false⟩ } (moveTo 7 (.physical 1))
        = some .destinationRetired
      ∧ moveRefusal worn (moveTo 7 (.logical 2)) = some .slotSuspect)
    ∧ (refusalOf ((inMode .faulted).tryScan ⟨7, .all, 0, 0⟩) = some .modeRefused
      ∧ refusalOf ((withEntries [mv .done]).tryScan ⟨7, .all, 0, 0⟩) = some .tagInUse
      ∧ refusalOf ((withEntries (mv .done :: eleven)).tryScan ⟨0x11#8, .all, 0, 0⟩) = some .queueFull
      ∧ refusalOf (calm.tryScan ⟨7, .port, 5, 6⟩) = some .noSuchLocation)
    ∧ ((Ref.logical 1).wellFormed = true
      ∧ refusalOf (calm.tryStow (7, .logical 1)) = some .notHolding
      ∧ refusalOf (State.tryStow { inMode .holding with queue := (withEntries [mv .done]).queue } (7, .logical 1))
        = some .tagInUse
      ∧ refusalOf
          (State.tryStow { inMode .holding with queue := (withEntries (mv .done :: eleven)).queue }
            (0x11#8, .logical 1)) = some .queueFull
      ∧ refusalOf ((inMode .holding).tryStow (7, .bay 1)) = some .driveAbsent
      ∧ refusalOf (State.tryStow { worn with ctl := ⟨.holding, .ready, false⟩ } (7, .logical 2)) = some .slotSuspect) := by
  refine ⟨⟨calm_takes 1, ?_⟩, ?_, ?_, ?_⟩ <;> decide +kernel

/-- Claims go to the locations named, and to no other. -/
theorem witness_claim :
    [Loc.slot 0, .slot 1].Nodup ∧ Loc.slot 1 ∈ calm.inv.locations
      ∧ ((calm.inv.claim [.slot 0, .slot 1] 7).place (.slot 1)).claims = [7]
      ∧ ((calm.inv.claim [.slot 0, .slot 1] 7).place (.slot 2)).claims = []
      ∧ Loc.slot 48 ∉ calm.inv.locations := by decide +kernel

theorem witness_RequestsAccepted :
    ((withEntries eleven).takes 1 ∧ (moveTo 7 (.logical 1)).wellFormed = true
        ∧ (withEntries eleven).ctl.mode ≠ .faulted ∧ (withEntries eleven).entry? 7 = none
        ∧ (withEntries eleven).queue.entries.length < 12
        ∧ ((withEntries eleven).resolve .moveSource (.logical 0)).toOption = some (.slot 0)
        ∧ ((withEntries eleven).resolve .moveDest (.logical 1)).toOption = some (.slot 1)
        ∧ (withEntries eleven).destRefusal (.slot 1) = none)
      ∧ ((calm.resolveScan .port 0 5).toOption.map List.length = some 6)
      ∧ ((inMode .holding).takes 1 ∧ (Ref.logical 1).wellFormed = true ∧ (inMode .holding).ctl.mode = .holding
        ∧ ((inMode .holding).resolve .stowDest (.logical 1)).toOption = some (.slot 1)
        ∧ (inMode .holding).destRefusal (.slot 1) = none) := by decide +kernel

/-- What a DIVERT of the entry handed off, from a state with its job, is refused with. -/
def divertRefusal (s : State) (r : Ref) : Option Status := refusalOf (s.tryDivert (7, r))

theorem witness_ConfirmAndDivertCarryOn :
    (stopsAt (parseByte []) = some 0 ∧ stopsAt (parseTagRef [0x07#8]) = some 1
      ∧ handedOff.entry? 8 = none ∧ (withEntries [mv .running]).entry? 7 = some (mv .running)
      ∧ divertRefusal handedOff (.gripper 0) = some .referenceNotAllowed
      ∧ divertRefusal { handedOff with port := ⟨.closed, false, .noMark⟩ } (.port 0) = some .portState
      ∧ divertRefusal handedOff (.logical 0) = some .sameLocation
      ∧ divertRefusal { handedOff with map := worn.map } (.logical 2) = some .slotSuspect
      ∧ divertRefusal { handedOff with inv := { calm.inv with slots := List.replicate 3 PlaceRec.notKnown } }
          (.logical 2) = some .destinationFull
      ∧ divertRefusal { handedOff with inv := calm.inv.claim [.slot 2] 9 } (.logical 2) = some .divertClaimed)
    ∧ handedOff.takes 1 ∧ handedOff.entry? 7 = some (mv .awaitingConfirm)
    ∧ handedOff.seq.job = some { jobAt (mv .awaitingConfirm) .pick with stage := none }
    ∧ (handedOff.resolve .divertDest (.logical 2)).toOption = some (.slot 2)
    ∧ some (Loc.slot 2) ≠ (mv .awaitingConfirm).source ∧ handedOff.destRefusal (.slot 2) = none
    ∧ (handedOff.inv.place (.slot 2)).occ = .empty ∧ (handedOff.inv.place (.slot 2)).claims = []
    ∧ Loc.slot 2 ∈ handedOff.inv.locations ∧ (mv .awaitingConfirm).dest = some (.slot 1)
    ∧ (handedOff.resolve .divertDest (.port 5)).toOption = some (.cell 5)
    ∧ handedOff.port.state = .secured := by
  refine ⟨?_, ?_, ?_, ?_, ?_, ?_, ?_, ?_, ?_, ?_, ?_, ?_, ?_⟩ <;> decide +kernel

/-- A MOVE from cell 0, and one from bay 0, to slot 1. -/
def outOfCell (st : EntryState) : Entry := { mv st with source := some (.cell 0) }
def outOfBay (st : EntryState) : Entry := { mv st with source := some (.bay 0) }

theorem witness_ReturnAndExpiryGoHome :
    handedOff.takes 1 ∧ handedOff.powered = true ∧ handedOff.seq.confirmTimer.isSome = true
      ∧ handedOff.entry? 8 = none ∧ (withEntries [mv .running]).entry? 7 = some (mv .running)
      ∧ handedOff.entry? 7 = some (mv .awaitingConfirm) ∧ handedOff.homeTest (mv .awaitingConfirm) = true
      ∧ State.homeTest { handedOff with map := calm.map.retire 48 0 } (mv .awaitingConfirm) = false
      ∧ (outOfCell .awaitingConfirm).source = some (.cell 0) ∧ (outOfBay .awaitingConfirm).source = some (.bay 0) := by
  decide +kernel

theorem witness_CancelByState :
    calm.takes 1 ∧ calm.entry? 7 = none
      ∧ stopsAt (parseByte []) = some 0
      ∧ ([.queued, .waitingPort, .waitingDrive .eject, .waitingDrive .load, .running, .awaitingConfirm, .done]
          : List EntryState).all
        (fun st => (withEntries [mv st]).entry? 7 == some (mv st)) = true := by
  refine ⟨calm_takes 1, ?_, ?_, ?_⟩ <;> decide +kernel

theorem witness_AbortAllCancels :
    calm.takes 1 ∧ calm.running? = none
      ∧ (atStage sw (jobAt sw .place) .place).running? = some sw
      ∧ (atStage { mv .running with placed := some none } (jobAt (mv .running) (.retract .placed)) .retract).running?
        = some { mv .running with placed := some none }
      ∧ (atStage (mv .running) (jobAt (mv .running) .pick) .pick).running? = some (mv .running)
      ∧ (atStage sc (jobAt sc .probe) .probe).running? = some sc
      ∧ handedOff.running? = some (mv .awaitingConfirm) ∧ TagsApart handedOff := by decide +kernel

theorem witness_EntryReachesDone :
    (withEntries [mv .queued]).entry? 7 = some (mv .queued) ∧ Loc.slot 0 ∈ (mv .queued).names
      ∧ Loc.slot 2 ∉ (mv .queued).names ∧ (mv .queued).kind ≠ .scan
      ∧ (atStage sc (jobAt sc .probe) .probe).seq.job.map (·.kind) = some (.entry 8)
      ∧ (atStage sc (jobAt sc .probe) .probe).entry? 8 = some sc ∧ sc.kind = .scan
      ∧ sc.scan = some ⟨.physical, 0, 1, [.slot 0, .slot 1]⟩
      ∧ (withEntries [mv .queued]).seq.job.map Job.kind ≠ some (.entry 7) ∧ calm.entry? 7 = none := by decide +kernel

/-- A bay whose waiting tag is the entry's, and one whose is not. -/
theorem witness_EntryReachesDoneAtABay :
    (State.bay
        { withEntries [mv .running] with
          bays := [{ bayIn .loading with waiting := some (7, .load), loadResult := some .ok }, bayIn .loaded] } 0
      ).waiting.map (·.1) = some 7
      ∧ (calm.bay 0).waiting.map (·.1) ≠ some 7 := by decide +kernel

/-- The label A comes to slot 1, with slot 0 the other holder: one DUPLICATE_LABEL, and both are flagged; the label B
comes alone. -/
theorem test_duplicateLabel :
    let t := calm.inventoryUpdate (·.put (.slot 1) .occupied (some [0x41#8]))
    let v := calm.inventoryUpdate (·.put (.slot 1) .occupied (some [0x42#8]))
    t.notices.queue.map (·.body) = [.attention (.duplicateLabel [0x41#8] (.slot 1) 2)]
      ∧ (t.inv.place (.slot 0)).dup = true ∧ (t.inv.place (.slot 1)).dup = true
      ∧ v.notices.queue = [] ∧ (v.inv.place (.slot 1)).dup = false := by decide +kernel

theorem witness_inventoryUpdates :
    let w := calm.inv.put (.slot 1) .occupied (some [0x41#8])
    Loc.slot 1 ∈ w.locations ∧ Loc.slot 1 ∈ calm.inv.locations
      ∧ (w.place (.slot 1)).occ = .occupied ∧ (w.place (.slot 1)).label = some [0x41#8]
      ∧ (calm.inv.place (.slot 1)).occ = .empty
      ∧ (w.locations.filter fun x => (w.place x).holds == some [0x41#8]) = [.slot 0, .slot 1]
      ∧ (calm.inv.locations.filter fun x => (calm.inv.place x).holds == some [0x41#8]) = [.slot 0] := by
  decide +kernel

/-- A full notice queue, with one completion waiting and one kind folded. -/
def full : State :=
  { calm with
    notices :=
      { queue := (List.range 24).map fun n => ⟨BitVec.ofNat 16 n, 1, .attention .doorClosed⟩,
        admission := [.verify 7 none none none none], summary := [.mapFull], next := 24,
        repeatTimer := some 1000 } }

theorem witness_NoticesEnterOrWait :
    (calm.notices.admission = [] ∧ calm.notices.queue.length < 24 ∧ calm.notices.summary = [])
      ∧ ¬ (full.notices.admission = [] ∧ full.notices.queue.length < 24 ∧ full.notices.summary = [])
      ∧ full.notices.queue.length ≤ 24
      ∧ (let s : State := { full with notices := { full.notices with admission := [], queue := full.notices.queue.drop 1 } };
        s.notices.queue.length = 23
          ∧ (State.refill s.notices.admission s).notices.admission = []
          ∧ (State.refill s.notices.admission s).notices.queue.length < 24
          ∧ (State.refill s.notices.admission s).notices.summary ≠ []) := by decide +kernel

/-- A completion that enters marks its entry and starts the repeat timer, a VERIFY starts the confirm timer, and a frame
of the same number that waits is replaced. -/
theorem test_noticesEnter :
    (let t := (withEntries [mv .done]).enterNotice (.completionMove 7 .move 1 .ok none none none none);
      t.queue.entries.map (·.noticeQueued) = [true] ∧ t.notices.repeatTimer = some 1000
        ∧ t.link.noticeFrames = t.notices.queue ∧ t.notices.next = 1)
      ∧ (calm.enterNotice (.verify 7 none none none none)).seq.confirmTimer = some 60
      ∧ (calm.askNotice (.verify 7 none none none none)).notices.queue.length = 1
      ∧ (full.askNotice (.verify 7 none none none none)).notices.admission.length = 2
      ∧ (let n : Notice := ⟨0, 2, .attention .doorClosed⟩;
        (State.enterNotice { calm with link := { calm.link with noticeFrames := [n] } }
            (.summary [.mapFull])).link.noticeFrames = [⟨0, 1, .summary [.mapFull]⟩]) := by decide +kernel

/-- PAUSE has been taken before one MOVE was accepted. -/
def paused : State := { withEntries [mv .queued] with queue := ⟨[mv .queued], true, 1⟩, inv := calm.inv.claim [.slot 0, .slot 1] 7 }

/-- PAUSE has been taken before one MOVE from bay 0, whose drive is LOADED, was accepted. -/
def pausedAtDrive : State :=
  { withEntries [outOfBay .queued] with
    queue := ⟨[outOfBay .queued], true, 1⟩, inv := calm.inv.claim [.bay 0, .slot 1] 7,
    bays := [bayIn .loaded, bayIn .absent] }

theorem witness_ChoiceAndStartChecks :
    (paused.takes 1 ∧ TagsApart paused ∧ paused.queue.hold = true ∧ paused.seq.job = none ∧ paused.seq.picker = .idle
      ∧ paused.ctl.mode = .ready ∧ (∀ b ∈ paused.bays, b.state ≠ .loaded) ∧ paused.port.state ≠ .auditPending
      ∧ paused.queue.entries.find?
          (fun e => State.eligible { paused with queue := { paused.queue with hold := false } } e)
        = some (mv .queued)
      ∧ (mv .queued).kind = .move ∧ (mv .queued).source = some (.slot 0) ∧ (mv .queued).dest = some (.slot 1)
      ∧ paused.startCheck (mv .queued) = none ∧ sw.dest = some (.slot 1) ∧ sw.kind = .stow
      ∧ (State.port { paused with port := ⟨.auditPending, true, .pending⟩ }).mark = .pending)
    ∧ (pausedAtDrive.takes 1 ∧ TagsApart pausedAtDrive ∧ pausedAtDrive.queue.hold = true
      ∧ pausedAtDrive.seq.free = true ∧ pausedAtDrive.ctl.mode = .ready
      ∧ outOfBay .queued ∈ pausedAtDrive.queue.entries ∧ (outOfBay .queued).kind = .move
      ∧ (outOfBay .queued).source = some (.bay 0) ∧ (pausedAtDrive.bay 0).state = .loaded
      ∧ (∀ x ∈ (outOfBay .queued).names,
          (pausedAtDrive.inv.place x).claims.head? = some (outOfBay .queued).tag)) := by
  refine ⟨?_, ?_⟩ <;> decide +kernel

/-- A MOVE accepted with the picker IDLE and nothing before it. -/
theorem witness_acceptedMoveRuns :
    calm.takes 1 ∧ (moveTo 7 (.logical 1)).wellFormed = true ∧ TagsApart calm ∧ calm.ctl.mode = .ready
      ∧ calm.queue.hold = false ∧ calm.seq.free = true ∧ calm.seq.picker = .idle ∧ calm.entry? 7 = none
      ∧ (∀ e ∈ calm.queue.entries, e.state ≠ .queued)
      ∧ (calm.resolve .moveSource (.logical 0)).toOption = some (.slot 0)
      ∧ (calm.resolve .moveDest (.logical 1)).toOption = some (.slot 1) ∧ calm.destRefusal (.slot 1) = none
      ∧ calm.port.state ≠ .auditPending ∧ (calm.inv.place (.slot 0)).occ = .occupied
      ∧ (calm.inv.place (.slot 1)).occ = .empty ∧ (calm.inv.place (.slot 0)).claims = []
      ∧ (calm.inv.place (.slot 1)).claims = [] ∧ sc.kind = .scan := by decide +kernel

/-- PAUSE taken, the picker and the mode given, and the entries, each the oldest at what it names. -/
def chooses (p : Picker) (m : LibMode) (es : List Entry) : State :=
  { calm with
    queue := ⟨es, true, 1⟩, inv := es.foldl (fun v e => v.claim e.names e.tag) calm.inv,
    seq := { calm.seq with picker := p }, ctl := { calm.ctl with mode := m } }

/-- The entry chosen once the hold flag is clear. -/
def chosen (s : State) : Option Entry :=
  let v : State := { s with queue := { s.queue with hold := false }, seq := { s.seq with parkTimer := none } }
  v.queue.entries.find? v.eligible

/-- A MOVE from slot 2, which is EMPTY, and a QUEUED STOW and SCAN. -/
def fromEmpty : Entry := { mv .queued with tag := 3, source := some (.slot 2), dest := some (.slot 3) }
def stowQueued : Entry := inState sw .queued
def scanQueued : Entry := inState sc .queued

/-- What the choices of ChoiceAndStartChecks ask for: each picker, a MOVE, a STOW and a SCAN, a choice that selects
nothing, a start check that fails and the next choice after it. -/
theorem witness_choices :
    (∀ p, (chooses p .ready [mv .queued]).takes 1 ∧ TagsApart (chooses p .ready [mv .queued])
        ∧ (chooses p .ready [mv .queued]).seq.picker = p ∧ (chooses p .ready []).seq.picker = p)
      ∧ ([.idle, .parked, .unhomed].all fun p =>
          (chooses p .ready [mv .queued]).seq.free && (chosen (chooses p .ready [mv .queued]) == some (mv .queued))
            && (chosen (chooses p .ready []) == none)) = true
      ∧ (chooses .idle .ready []).params.parkDelay ≠ 0
      ∧ chosen (chooses .idle .holding [stowQueued]) = some stowQueued
      ∧ (chooses .idle .holding [stowQueued]).startCheck stowQueued = none ∧ stowQueued.dest = some (.slot 1)
      ∧ chosen (chooses .idle .ready [scanQueued]) = some scanQueued
      ∧ (chooses .idle .ready [scanQueued]).startCheck scanQueued = none
      ∧ ([.slot 0, .slot 1] : List Loc).dropWhile
          (fun y => !(chooses .idle .ready [scanQueued]).callsForOrders y) = [.slot 0, .slot 1]
      ∧ chosen (chooses .idle .ready [fromEmpty]) = some fromEmpty
      ∧ (chooses .idle .ready [fromEmpty]).startCheck fromEmpty = some .sourceEmpty
      ∧ chosen ((chooses .idle .ready [fromEmpty]).entryDone 3 .sourceEmpty) = none
      ∧ chosen (chooses .idle .ready [fromEmpty, mv .queued]) = some fromEmpty
      ∧ chosen ((chooses .idle .ready [fromEmpty, mv .queued]).entryDone 3 .sourceEmpty) = some (mv .queued)
      ∧ ((chooses .idle .ready [fromEmpty, mv .queued]).entryDone 3 .sourceEmpty).startCheck (mv .queued) = none := by
  refine ⟨fun p => ⟨calm_takes 1, by cases p <;> decide +kernel, rfl, rfl⟩, by decide +kernel⟩

/-- RESUME asserts eject at the LOADED source bay, and the MOVE waits for it. -/
theorem test_resumeAssertsEject :
    (after (.resume 1 []) pausedAtDrive).map
        (fun t => ((t.bay 0).state, (t.bay 0).eject, (t.bay 0).waiting, t.queue.entries.map (·.state)))
      = some (.ejecting, true, some (7, .eject), [.waitingDrive .eject]) := by decide +kernel

/-- A running MOVE into cell 5, and one that waits in a drive with its source in cell 0. -/
def intoCell : Entry := { mv .running with dest := some (.cell 5) }
def fromCell : Entry := { mv (.waitingDrive .load) with source := some (.cell 0) }

theorem witness_PortUnlockAndLock :
    stopsAt (parseEmpty [0x00#8]) = some 0
      ∧ calm.port.state = .secured ∧ calm.takes 1
      ∧ (withEntries [intoCell]).port.state = .secured
      ∧ (∃ e ∈ (withEntries [intoCell]).queue.entries, (e.state = .running ∨ e.state = .awaitingConfirm)
        ∧ ∃ x ∈ e.names, x.isCell = true)
      ∧ (¬ ∃ e ∈ (withEntries [fromCell]).queue.entries,
          (e.state = .running ∨ e.state = .awaitingConfirm) ∧ ∃ x ∈ e.names, x.isCell = true)
      ∧ ∀ p, State.takes { calm with port := p } 1 :=
  ⟨by decide +kernel, rfl, calm_takes 1, rfl, by decide +kernel, by decide +kernel, fun _ => calm_takes 1⟩

/-- For HoldFlag, MaintenanceByMode, RecoverAndRelease, ResetSoftResets and ResetFullThenReload. -/
theorem witness_ModesAndReset :
    (∀ m, (inMode m).takes 1 ∧ (inMode m).ctl.mode = m)
      ∧ (inMode .stopped).ctl.stopLine = false
      ∧ (State.takes { inMode .stopped with ctl := ⟨.stopped, .ready, true⟩ } 1)
      ∧ calm.powered = true
      ∧ (∀ r, (resetting r).powered = true ∧ (resetting r).link.resetWait = some ⟨false, r⟩
          ∧ (resetting r).store.commit = none) :=
  ⟨fun _ => ⟨calm_takes 1, rfl⟩, rfl, calm_takes 1, rfl, fun _ => ⟨rfl, rfl, rfl⟩⟩

/-- The interval of RESET FULL with a bank to load, and with none. -/
theorem witness_reloadLoads :
    (resetting false).store.loadBank = none
      ∧ (let s : State :=
          { resetting false with store := { (resetting false).store with bank1 := goodBank } };
        s.powered = true ∧ s.link.resetWait = some ⟨false, false⟩ ∧ s.store.commit = none
          ∧ s.store.loadBank = some .bank1
          ∧ SlotMap.adjusted s.nPhys ⟨[], [], 44, List.replicate s.nPhys 0⟩ = none) := by decide +kernel

/-- A body that each of the readers finds malformed, for the BAD_FORMAT clauses. -/
theorem witness_malformedBodies :
    stopsAt (parseEmpty [0x00#8]) = some 0 ∧ stopsAt (parseByte []) = some 0 ∧ stopsAt (parseRange [0x01#8]) = some 1
      ∧ stopsAt (parseAbort [0x02#8]) = some 0 ∧ stopsAt (parseAck []) = some 0
      ∧ stopsAt (parseReset [0x02#8]) = some 0 ∧ stopsAt (parseParams []) = some 0 := by decide +kernel

/-- A job whose stage runs at slot 0, the gripper sensed holding the cartridge recorded there, and a LOADED bay with a
label, for ResetSoftResets. -/
def heldAtReset : State :=
  { atStage (mv .running) (jobAt (mv .running) .pick) .pick with
    inv := { calm.inv with gripper := holdsA, bays := [⟨.occupied, some [0x42#8], false, []⟩, PlaceRec.vacant] }
    bays := [bayIn .loaded, bayIn .absent] }

theorem witness_ResetSoftLocations :
    heldAtReset.powered = true ∧ heldAtReset.stageLocation = some (.slot 0) ∧ .slot 0 ∈ heldAtReset.inv.locations
      ∧ heldAtReset.stageLocation ≠ some .gripper ∧ heldAtReset.inv.gripper.holds = some [0x41#8]
      ∧ .bay 0 ∈ heldAtReset.inv.locations ∧ (heldAtReset.bay 0).state = .loaded
      ∧ (heldAtReset.inv.place (.bay 0)).label = some [0x42#8]
      ∧ derivedState ⟨true, ⟨true, true, false⟩⟩ = .loaded := by decide +kernel

/-- A bay in EJECTING with a label, whose drive still shows ACCEPTED. -/
def ejectingAtReset : State :=
  { calm with
    inv := { calm.inv with bays := [holdsA, PlaceRec.vacant] }, bays := [bayIn .ejecting, bayIn .absent],
    pins := { calm.pins with drives := { calm.pins.drives with b0 := ⟨true, ⟨false, true, false⟩⟩ } } }

/-- RESET SOFT derives such a bay LOADED, and keeps its label or not as the one or the other of R113's sentences has it
(log entry 28). -/
theorem test_resetLabel :
    ejectingAtReset.derivedBay 0 = .loaded
      ∧ ejectingAtReset.resetLabel 0 = if Config.resetKeepsEjectingLabel then some [0x41#8] else none := by
  refine ⟨by decide +kernel, ?_⟩
  unfold State.resetLabel
  cases Config.resetKeepsEjectingLabel <;> decide +kernel

/-- The labels of the small state are in order, so that RESET SOFT in READY empties the notices, the folded ones and the
waiting frames included, and tells the change of mode alone. -/
theorem witness_ResetSoftNotices :
    (∀ p ∈ full.inv.records, (p.label.isSome = true → p.occ = .occupied) ∧ p.dup = full.inv.duplicated p)
      ∧ full.takes 1 ∧ full.ctl.mode = .ready
      ∧ (after (.resetSoft 1 [0x00#8] still)
            { full with link := { full.link with noticeFrames := full.notices.queue } }).map
          (fun t => (t.notices, t.link.noticeFrames.map (·.number)))
        = some (⟨[⟨24, 1, .attention (.modeChanged (some .ready) .initializing none .reset none)⟩], [], [], 25,
            some 1000⟩, [24]) := by decide +kernel

theorem witness_NoticeAckRemoves :
    full.takes 1 ∧ calm.notices.queue.findIdx? (fun m => m.number == 0) = none
      ∧ full.notices.queue.findIdx? (fun m => m.number == 0) = some 0
      ∧ full.notices.queue.findIdx? (fun m => m.number == 23) = some 23 := by decide +kernel

/-! ### Witnesses: the map, the parameters and the map store -/

theorem witness_MapRequestRefusals :
    calm.retireRefusal 1 = some .modeRefused
      ∧ State.retireRefusal { inMode .maintenance with queue := (withEntries [mv .queued]).queue } 1 = some .queueNotEmpty
      ∧ (inMode .maintenance).retireRefusal 48 = some .noSuchLocation
      ∧ State.retireRefusal { inMode .maintenance with map := calm.map.retire 48 1 } 1 = some .alreadyRetired
      ∧ (let m := (List.range 16).foldl (fun m p => m.retire 48 p) calm.map;
        State.retireRefusal { inMode .maintenance with map := m } 16 = some .mapFull
          ∧ State.consolidateRefusal { inMode .maintenance with map := { m with base := (List.range 9).map (· + 20) } }
            = some .listOverflow
          ∧ State.consolidateRefusal
              { inMode .maintenance with straps := ⟨0, 2, .r115200⟩, map := m } = some .listOverflow)
      ∧ State.exposedRefusal { inMode .maintenance with map := calm.map.retire 48 1 } 44 = some .mapNotClean
      ∧ (inMode .maintenance).exposedRefusal 0 = some .outOfRange
      ∧ (inMode .maintenance).exposedRefusal 49 = some .outOfRange
      ∧ State.exposedRefusal
          { inMode .maintenance with inv := { calm.inv with slots := List.replicate 48 PlaceRec.notKnown } } 43
        = some .slotsOccupied := by decide +kernel

theorem witness_MapRequestsTaken :
    (inMode .maintenance).takes 1 ∧ (inMode .maintenance).ctl.mode = .maintenance
      ∧ (∀ e ∈ (inMode .maintenance).queue.entries, e.state = .done)
      ∧ ((0x2F#8 : Byte).toNat < (inMode .maintenance).nPhys ∧ calm.map.retired 47 = false
        ∧ calm.map.grown.length < 16)
      ∧ (calm.map.base.length + calm.map.grown.length ≤ 24
        ∧ 12 ≤ calm.nPhys - (calm.map.base.length + calm.map.grown.length))
      ∧ (calm.map.exposed = (0x2C#8 : Byte).toNat ∧ (0x30#8 : Byte).toNat ≤ calm.available ∧ 1 ≤ (0x01#8 : Byte).toNat
        ∧ ∀ p ∈ ((calm.map.baseOrder calm.nPhys).take calm.map.exposed).drop 1,
          (calm.inv.place (.slot p)).occ = .empty) := by decide +kernel

/-- Every parameter at the lowest value of its range, and at the highest. -/
def lowest : ParamBody := ⟨0, 1, 500, 5, 5, 5, 0, 0, 200⟩
def highest : ParamBody := ⟨3, 8, 30000, 600, 300, 300, 3600, 1, 10000⟩

theorem witness_SetParametersReplaces :
    calm.takes 1 ∧ lowest.wellFormed = true ∧ lowest.firstBad = none ∧ highest.wellFormed = true
      ∧ highest.firstBad = none
      ∧ ([{ highest with retries := 4 }, { lowest with threshold := 0 }, { highest with stageLimit := 30001 },
          { lowest with confirmLimit := 4 }, { highest with loadLimit := 301 }, { lowest with ejectLimit := 4 },
          { lowest with parkDelay := 9 }, { highest with autoRelock := 2 }, { highest with repeatInterval := 10001 }]
            : List ParamBody).map (fun b => (b.wellFormed, b.firstBad))
        = (List.range 9).map fun i => (true, some i) := by decide +kernel

/-- A commit in flight on bank 1, the newest bank being bank 0. -/
def committing (retrying pending : Bool) : State :=
  { calm with
    store :=
      { calm.store with
        newest := some .bank0, commitPending := pending,
        commit := some ⟨.bank1, ⟨1, [], [], 44, Params.default⟩, retrying, Bank.blank⟩,
        wait := some ⟨1, 0x15#8, pending⟩ } }

/-- A commit in flight with another pending, and a reply that waits on either. -/
def doubled (retrying onPending : Bool) : State :=
  { committing retrying true with
    store := { (committing retrying true).store with wait := some ⟨1, 0x15#8, onPending⟩ } }

theorem witness_CommitsFollowOneAnother (r p : Bool) :
    (doubled r p).powered = true ∧ (doubled r p).link.resetWait = none
      ∧ (doubled r p).store.commit.map (·.retrying) = some r ∧ (doubled r p).store.commitPending = true
      ∧ (doubled r p).store.wait = some ⟨1, 0x15#8, p⟩ := ⟨rfl, rfl, rfl, rfl, rfl⟩

/-- For CommitsFollowOneAnother and BankWriteCompletes. -/
theorem witness_CommitStatements :
    calm.store.commit = none
      ∧ (∀ r p, (committing r p).powered = true ∧ (committing r p).link.resetWait = none
        ∧ (committing r p).store.commit.map (·.retrying) = some r ∧ (committing r p).store.commitPending = p
        ∧ (committing r p).store.wait = some ⟨1, 0x15#8, p⟩) :=
  ⟨rfl, fun _ _ => ⟨rfl, rfl, rfl, rfl, rfl⟩⟩

/-! ### Witnesses: jobs -/

/-- Homing, the first attempt or the second, with HOME number 5 outstanding. -/
def homingJob (second : Bool) : Job := { Job.fresh (.homing second) none with stage := some (.home .firstProper) }
def homing (second : Bool) : State :=
  { calm with
    seq := ⟨some (homingJob second), .homing, none, none⟩, mech := ⟨some ⟨5, .home, none⟩, 5, some 20000⟩ }

theorem witness_HomingJob (second : Bool) :
    Awaits (homing second) 5 .home (homingJob second) (.home .firstProper)
      ∧ (homingJob second).kind = .homing second ∧ (homing second).seq.picker = .homing
      ∧ still.gripper = false ∧ sensed.gripper = true :=
  ⟨⟨rfl, ⟨none, rfl⟩, rfl, rfl⟩, rfl, rfl, rfl, rfl⟩

/-- The second homing failure leaves FAULTED with the picker UNHOMED, and the gripper's record standing though its
sensor has come to show a cartridge (R155). -/
theorem test_homingFaulted :
    (after (.homeOutcome 5 .fault sensed) (homing true)).map
        (fun t => (t.ctl.mode, t.seq.picker, t.inv.gripper.occ, t.pins.gripper))
      = some (.faulted, .unhomed, .empty, true) := by decide +kernel

/-- A job on the return path. -/
def backJob (e : Entry) (st : Stage) : Job := { jobAt e st with onReturn := some .placeFailed }

/-- The audit of slots 0 and 1 at slot 0. -/
def scanJob (st : Stage) (rest : List Loc) : Job :=
  { jobAt sc st with audit := some ⟨.slot 0, rest, true, .occupied, some [0x41#8], 0, 0, 0⟩ }

/-- The port audit at cell 0. -/
def portJob (st : Stage) : Job :=
  { Job.fresh .portAudit (some ⟨.cell 0, [], true, .unknown, none, 0, 0, 0⟩) with stage := some st }

/-- Each order of an entry's job has a state that awaits its outcome, whatever the job has recorded. -/
theorem witness_awaits (e : Entry) (j : Job) (k : OrderKind) (st : Stage) (hk : j.kind = .entry e.tag)
    (hs : j.stage = some st) : Awaits (atStage e j k) 5 k j st ∧ JobOf (atStage e j k) j e :=
  ⟨atStage_awaits _ _ _ _ hs, hk, by simp [State.entry?, atStage, withEntries]⟩

/-- A job with an interruption pending, and one that has been rehomed. -/
def struck (e : Entry) (st : Stage) : Job := { jobAt e st with interruption := some .stop }
def rehomed (e : Entry) (st : Stage) : Job := { jobAt e st with travelRetried := true }

/-- The port audit with the interruption of a forced opening. -/
def struckPortJob (st : Stage) : Job := { portJob st with interruption := some .portDisturbed }

/-- A SCAN at bay 0, whose drive holds nothing at its mouth: no order is due there. -/
def scanAtBay : Audit := ⟨.bay 0, [.slot 1], false, .empty, none, 0, 0, 0⟩

/-- What the clauses of HomeOutcomes, TravelOutcomes, PickOutcomes, PlaceOutcomes, RetractOutcomes, IdentifyOutcomes
and ParkingAndUnparking ask of entries and jobs, met by jobs that `witness_awaits` gives a state to. -/
theorem witness_JobClauses (st : Stage) :
    ((mv .running).kind = .move ∧ sw.kind = .stow ∧ sc.kind = .scan ∧ (mv .running).placed = none ∧ sw.placed = none)
    ∧ (∀ e : Entry, (jobAt e st).kind = .entry e.tag ∧ (jobAt e st).stage = some st ∧ (jobAt e st).onReturn = none
      ∧ (jobAt e st).interruption = none ∧ (jobAt e st).travelRetried = false
      ∧ (jobAt e st).retry < (jobAt e st).keptRetries
      ∧ ({ jobAt e st with retry := 2 } : Job).keptRetries ≤ 2
      ∧ (struck e st).kind = .entry e.tag ∧ (struck e st).onReturn = none ∧ (struck e st).interruption = some .stop
      ∧ (rehomed e st).kind = .entry e.tag ∧ (rehomed e st).travelRetried = true
      ∧ (backJob e st).kind = .entry e.tag ∧ (backJob e st).onReturn = some .placeFailed)
    ∧ ((scanJob st [.slot 1]).kind = .entry sc.tag ∧ (scanJob st [.slot 1]).audit.map (·.byOrders) = some true
      ∧ ({ jobAt sc st with audit := some scanAtBay } : Job).audit = some scanAtBay ∧ scanAtBay.byOrders = false)
    ∧ (Awaits (atStage sc (portJob st) .probe) 5 .probe (portJob st) st ∧ (portJob st).kind = .portAudit
      ∧ (portJob st).audit.map (·.byOrders) = some true ∧ (portJob st).interruption = none
      ∧ (struckPortJob st).interruption.isSome = true ∧ (∀ second, (portJob st).kind ≠ .homing second)) :=
  ⟨⟨rfl, rfl, rfl, rfl, rfl⟩,
    fun _ => ⟨rfl, rfl, rfl, rfl, rfl, Nat.succ_pos _, Nat.le_refl _, rfl, rfl, rfl, rfl, rfl, rfl, rfl⟩,
    ⟨rfl, rfl, rfl, rfl⟩, atStage_awaits _ _ _ _ rfl, rfl, rfl, rfl, rfl, fun _ h => by cases h⟩

/-- UNPARK of a port audit: with its interruption pending, and after a travel fault. -/
theorem witness_portAuditUnparks :
    Awaits (atStage sc (struckPortJob .unpark) .unpark) 5 .unpark (struckPortJob .unpark) .unpark
      ∧ (struckPortJob .unpark).kind = .portAudit ∧ (struckPortJob .unpark).interruption.isSome = true
      ∧ Awaits (atStage sc { portJob .unpark with travelRetried := true } .unpark) 5 .unpark
          { portJob .unpark with travelRetried := true } .unpark :=
  ⟨atStage_awaits _ _ _ _ rfl, rfl, rfl, atStage_awaits _ _ _ _ rfl⟩

/-- The home test holds and fails, for HomeOutcomes, TravelOutcomes and RetractOutcomes. -/
theorem witness_HomeTests (st : Stage) (k : OrderKind) :
    State.homeTest (atStage (mv .running) (backJob (mv .running) st) k) (mv .running) = true
      ∧ State.homeTest
          { atStage (mv .running) (backJob (mv .running) st) k with map := calm.map.retire 48 0 } (mv .running)
        = false := by
  constructor <;> rfl

/-- A MOVE into a cell, and one into bay 0. -/
def toCell : Entry := { mv .running with dest := some (.cell 5) }
def toBay : Entry := { mv .running with dest := some (.bay 0) }

theorem witness_PickOutcomes :
    (mv .running).source = some (.slot 0) ∧ (outOfCell .running).source = some (.cell 0)
      ∧ (outOfBay .running).source = some (.bay 0)
      ∧ (mv .running).skipLabel = false ∧ (mv .running).verify = false
      ∧ (let e : Entry := { mv .running with skipLabel := true, verify := true };
        JobOf (atStage e (jobAt e .pick) .pick) (jobAt e .pick) e ∧ e.skipLabel = true ∧ e.verify = true) := by
  decide +kernel

theorem witness_PlaceOutcomes :
    (mv .running).dest = some (.slot 1) ∧ toCell.dest = some (.cell 5) ∧ toBay.dest = some (.bay 0)
      ∧ (backJob (outOfBay .running) .place).onReturn.isSome = true
      ∧ (atStage toCell (jobAt toCell .place) .place).port.state = .secured
      ∧ (let s : State := { atStage toCell (jobAt toCell .place) .place with port := ⟨.opened, false, .noMark⟩ };
        s.port.state ≠ .secured ∧ s.port.mark ≠ .running)
      ∧ ((atStage toBay (jobAt toBay .place) .place).bay 0).state ≠ .absent
      ∧ (State.bay
          { atStage toBay (jobAt toBay .place) .place with bays := [bayIn .absent, bayIn .absent] } 0).state = .absent :=
  by decide +kernel

/-- A STOW into bay 0. -/
def stowInBay : Entry := { sw with dest := some (.bay 0) }

theorem witness_RetractOutcomes :
    ((atStage toBay (jobAt toBay (.retract .placed)) .retract).bay 0).loadResult = none
      ∧ (State.bay
          { atStage toBay (jobAt toBay (.retract .placed)) .retract with
            bays := [{ bayIn .loaded with loadResult := some .ok }, bayIn .absent] } 0).loadResult = some .ok
      ∧ stowInBay.dest = some (.bay 0) ∧ stowInBay.kind = .stow
      ∧ (let a : State := atStage stowInBay (jobAt stowInBay (.retract .placed)) .retract;
        ((State.setMode { a with ctl := ⟨.holding, .ready, false⟩ } .ready .stowed (some 9)).cancelStows.bay 0).loadResult
          = none)
      ∧ (let a : State := atStage stowInBay (jobAt stowInBay (.retract .placed)) .retract;
        ((State.setMode
            { a with
              ctl := ⟨.holding, .ready, false⟩, bays := [{ bayIn .loaded with loadResult := some .ok }, bayIn .absent] }
            .ready .stowed (some 9)).cancelStows.bay 0).loadResult = some .ok)
      ∧ toCell.dest = some (.cell 5) := by
  decide +kernel

theorem witness_AuditOutcomes (st : Stage) (k : OrderKind) (rest : List Loc) :
    (Awaits (atStage sc (scanJob st rest) k) 5 k (scanJob st rest) st
      ∧ JobOf (atStage sc (scanJob st rest) k) (scanJob st rest) sc ∧ sc.kind = .scan
      ∧ (scanJob st rest).audit.map (·.rest) = some rest
      ∧ (scanJob st rest).retry < (scanJob st rest).keptRetries
      ∧ ({ scanJob st rest with retry := 2 } : Job).keptRetries ≤ 2
      ∧ ({ scanJob st rest with interruption := some .stop } : Job).interruption.isSome = true)
    ∧ ((Loc.cell 0).isCell = true
      ∧ (let s : State := { atStage sc (scanJob st rest) k with port := ⟨.opened, false, .noMark⟩ };
        s.port.state ≠ .secured ∧ s.port.mark ≠ .running))
    ∧ (Awaits (atStage sc (portJob st) k) 5 k (portJob st) st ∧ (portJob st).kind = .portAudit
      ∧ (portJob st).audit.map (·.current) = some (.cell 0) ∧ (portJob st).audit.map (·.rest) = some []
      ∧ ({ portJob st with audit := some ⟨.cell 0, [.cell 1], true, .unknown, none, 0, 0, 0⟩ } : Job).audit.map (·.rest)
        = some [.cell 1]
      ∧ (portJob st).interruption = none ∧ (struckPortJob st).interruption.isSome = true
      ∧ (portJob st).keptRetries ≤ (portJob st).retry
      ∧ (portJob st).retry < ({ portJob st with keptRetries := 2 } : Job).keptRetries
      ∧ (State.port { calm with port := ⟨.auditPending, true, .running⟩ }).mark = .running) :=
  ⟨⟨atStage_awaits _ _ _ _ rfl, ⟨rfl, rfl⟩, rfl, rfl, Nat.succ_pos _, Nat.le_refl _, rfl⟩,
    ⟨rfl, nofun, nofun⟩,
    atStage_awaits _ _ _ _ rfl, rfl, rfl, rfl, rfl, rfl, rfl, Nat.le_refl _, Nat.succ_pos _, rfl⟩

theorem witness_IdentifyOutcomes :
    labelOk [0x41#8] = true ∧ labelOk (List.replicate 16 0x7E#8) = true
      ∧ (let e : Entry := { mv .running with verify := true, expected := some [0x41#8] };
        JobOf (atStage e (jobAt e .identify) .read) (jobAt e .identify) e
          ∧ e.skipLabel = false ∧ e.expected = some [0x41#8] ∧ e.expected ≠ some [0x42#8])
      ∧ (mv .running).verify = false := by decide +kernel

/-- Parking, with PARK number 5 outstanding. -/
def parkJob : Job := { Job.fresh .parking none with stage := some .park }

theorem witness_ParkingAndUnparking :
    (let s : State := { calm with seq := ⟨none, .idle, some 300, none⟩ };
      s.powered = true ∧ s.seq.parkTimer.isSome = true ∧ s.seq.free = true)
    ∧ Awaits { calm with seq := ⟨some parkJob, .parking, none, none⟩, mech := ⟨some ⟨5, .park, none⟩, 5, some 5000⟩ }
        5 .park parkJob .park
    ∧ parkJob.kind = .parking
    ∧ Awaits (atStage (mv .running) (jobAt (mv .running) .unpark) .unpark) 5 .unpark
        (jobAt (mv .running) .unpark) .unpark
    ∧ (jobAt (mv .running) .unpark).travelRetried = false :=
  ⟨by decide, ⟨rfl, ⟨none, rfl⟩, rfl, rfl⟩, rfl, atStage_awaits _ _ _ _ rfl, rfl⟩

theorem witness_ExpiriesAndStaleOutcomes (k : OrderKind) :
    (atStage (mv .running) (jobAt (mv .running) .pick) k).mech.outstanding = some ⟨5, k, none⟩
      ∧ outcomeOf (.placeOutcome 4 .placed) = some (.place, 4, .placed)
      ∧ (∀ x, (atStage (mv .running) (jobAt (mv .running) .pick) .place).mech.outstanding = some ⟨4, .place, x⟩ →
          OrderKind.allows .place .placed = false) := by
  refine ⟨rfl, rfl, fun x h => ?_⟩
  exact absurd h (by simp [atStage])

/-- Texts that are no labels: empty, 17 characters, and a character on each side of the range. -/
theorem witness_noLabels :
    ([[], List.replicate 17 0x41#8, [0x1F#8], [0x7F#8]] : List (List Byte)).map labelOk = [false, false, false, false]
      ∧ ([[0x20#8], [0x7E#8]] : List (List Byte)).map labelOk = [true, true]
      ∧ (List.replicate 17 0x41#8 : List Byte).length = 17 := by decide +kernel

/-- At the threshold with a spare and with none: what the retirement tells. -/
theorem test_retiredByFaults :
    let lone : State := { worn with map := { calm.map with exposed := 48, faults := worn.map.faults } }
    (worn.reportFailure (some (.slot 2)) 7).notices.queue.map (·.body)
        = [.attention (.slotRetired 2 .faults (some 7) (some 2) (some 45) .empty none)]
      ∧ (lone.reportFailure (some (.slot 2)) 7).notices.queue.map (·.body)
        = [.attention (.slotRetired 2 .faults (some 7) (some 2) none .empty none), .attention (.logicalLost 2 2)] := by
  decide +kernel

theorem witness_FailureReports :
    (∀ p, some (Loc.cell 0) ≠ some (.slot p))
      ∧ 0 < calm.map.faults.length ∧ worn.map.retired 1 = true ∧ 1 < worn.map.faults.length
      ∧ calm.map.retired 0 = false ∧ calm.map.faultCount 0 + 1 < calm.params.threshold
      ∧ worn.map.retired 2 = false ∧ 2 < worn.map.faults.length ∧ worn.params.threshold ≤ worn.map.faultCount 2 + 1
      ∧ worn.map.grown.length < 16
      ∧ (let m := (List.range 16).foldl (fun m p => m.retire 48 p) calm.map;
        m.retired 16 = false ∧ 16 ≤ m.grown.length ∧ 16 < m.faults.length
          ∧ calm.params.threshold ≤ ({ m with faults := m.faults.set 16 2 } : SlotMap).faultCount 16 + 1) :=
  ⟨nofun, by decide +kernel⟩

theorem witness_MapLaws :
    (let m : SlotMap := ⟨[1, 23], [], 22, List.replicate 24 0⟩;
      m.grown = [] ∧ ascending m.base = true ∧ (∀ p ∈ m.base, p < 24) ∧ m.exposed ≤ m.available 24
        ∧ [0, 2, 22].Nodup ∧ ∀ p ∈ [0, 2, 22], p < 24 ∧ m.retired p = false) := by decide +kernel

/-! ### Witnesses: timers, drives, door and stop -/

/-- Bay 0 in a state, with the wait, and an entry 7 in a state. -/
def drive (b : Bay) (st : EntryState) : State := { withEntries [inState toBay st] with bays := [b, bayIn .absent] }

theorem witness_DriveTimers :
    (let b : Bay := { bayIn .loading with loadTimer := some 60, waiting := some (7, .load) };
      (drive b (.waitingDrive .load)).powered = true ∧ ((drive b (.waitingDrive .load)).bay 0).loadTimer.isSome = true
        ∧ (drive b (.waitingDrive .load)).entry? 7 = some (inState toBay (.waitingDrive .load))
        ∧ (drive b .running).entry? 7 = some (inState toBay .running))
    ∧ ((drive { bayIn .loading with loadTimer := some 60 } .queued).bay 0).waiting = none
    ∧ (let b : Bay := { bayIn .ejecting with eject := true, ejectTimer := some 90, waiting := some (7, .eject) };
      ((drive b (.waitingDrive .eject)).bay 0).ejectTimer.isSome = true
        ∧ ((drive b (.waitingDrive .eject)).bay 0).waiting = some (7, .eject))
    ∧ ((drive { bayIn .ejecting with ejectTimer := some 90 } .queued).bay 0).waiting = none := by decide +kernel

theorem witness_DriveLineEvents :
    (calm.powered = true ∧ (0 : Fin 4).val < calm.nBays ∧ (1 : Fin 4).val < calm.nBays
      ∧ (calm.bay 1).state = .absent ∧ (calm.bay 1).loadResult = none
      ∧ (State.bay { calm with bays := [bayIn .empty, { bayIn .absent with loadResult := some .driveRemoved }] } 1
          ).loadResult.isSome = true
      ∧ (calm.bay 0).state ≠ .absent ∧ (calm.bay 0).state = .empty ∧ (calm.bay 0).waiting = none
      ∧ calm.running? = none)
    ∧ (∀ e : Entry, ((atStage e (jobAt e .pick) .pick).bay 0).waiting = none
        ∧ (atStage e (jobAt e .pick) .pick).seq.job = some (jobAt e .pick))
    ∧ (JobOf (atStage sc (jobAt sc .probe) .probe) (jobAt sc .probe) sc ∧ sc.kind = .scan
      ∧ Loc.bay 0 ∉ (mv .running).names
      ∧ (outOfBay .running).kind ≠ .scan ∧ Loc.bay 0 ∈ (outOfBay .running).names
      ∧ Loc.bay 0 ∈ (outOfBay .awaitingConfirm).names ∧ (outOfBay .awaitingConfirm).state = .awaitingConfirm)
    ∧ (∀ st w, (drive { bayIn st with waiting := some (7, w) } .running).entry? 7 = some (inState toBay .running)
      ∧ (drive { bayIn st with waiting := some (7, w) } (.waitingDrive w)).entry? 7
        = some (inState toBay (.waitingDrive w))
      ∧ ((drive { bayIn st with waiting := some (7, w) } .running).bay 0).waiting = some (7, w)
      ∧ ((drive { bayIn st with waiting := some (7, w) } .running).bay 0).state = st
      ∧ ((drive (bayIn st) .queued).bay 0).waiting = none ∧ ((drive (bayIn st) .queued).bay 0).state = st
      ∧ (drive (bayIn st) .queued).seq.job = none) := by
  refine ⟨by decide +kernel, fun _ => ⟨rfl, rfl⟩, by decide +kernel, fun _ _ => ⟨rfl, rfl, rfl, rfl, rfl, rfl, rfl⟩⟩

/-- CARTRIDGE falls at an EJECTED bay: with a PICK or a PROBE or READ in flight there, with that PICK's job at
another bay, and with no job. -/
theorem witness_cartridgeFalls :
    (JobOf (atStage (outOfBay .running) (jobAt (outOfBay .running) .pick) .pick) (jobAt (outOfBay .running) .pick)
        (outOfBay .running)
      ∧ (jobAt (outOfBay .running) .pick).stage = some .pick ∧ (outOfBay .running).source = some (.bay 0)
      ∧ (outOfBay .running).source ≠ some (.bay 1))
    ∧ (∀ st, ({ jobAt sc st with audit := some scanAtBay } : Job).audit.map (·.current) = some (.bay 0)
      ∧ ({ jobAt sc st with audit := some scanAtBay } : Job).stage = some st)
    ∧ ((drive (bayIn .ejected) .queued).bay 0).state = .ejected ∧ (drive (bayIn .ejected) .queued).seq.job = none
    ∧ ((drive (bayIn .loading) .queued).bay 0).state ≠ .ejected := by
  refine ⟨by decide +kernel, fun _ => ⟨rfl, rfl⟩, rfl, rfl, nofun⟩

theorem witness_DoorEvents :
    (calm.powered = true ∧ calm.port.state = .secured ∧ calm.seq.job = none
      ∧ (∀ p, (State.port { calm with port := p }) = p) ∧ calm.params.autoRelock = true
      ∧ (State.params { calm with params := { calm.params with autoRelock := false } }).autoRelock = false)
    ∧ (∀ e j, (atStage e j .pick).seq.job = some j)
    ∧ (parkJob.kind = .parking ∧ (homingJob true).kind = .homing true ∧ (portJob .probe).kind = .portAudit)
    ∧ (∀ e : Entry, JobOf (atStage e (jobAt e .pick) .pick) (jobAt e .pick) e)
    ∧ (toCell.state = .running ∧ toCell.kind ≠ .scan ∧ toCell.isPort = true ∧ (mv .running).isPort = false)
    ∧ (let e : Entry := { sc with scan := some ⟨.port, 0, 5, (List.range 6).map .cell⟩ };
      e.isPort = true ∧ e.kind = .scan)
    ∧ ((outOfCell .awaitingConfirm).isPort = true ∧ (outOfCell .awaitingConfirm).kind ≠ .scan
      ∧ (outOfCell .awaitingConfirm).state = .awaitingConfirm) := by
  refine ⟨⟨rfl, rfl, rfl, fun _ => rfl, rfl, rfl⟩, fun _ _ => rfl, ⟨rfl, rfl, rfl⟩,
    fun e => (witness_awaits e (jobAt e .pick) .pick .pick rfl rfl).2, ?_, ?_, ?_⟩ <;> decide +kernel

theorem witness_EmergencyStop :
    (inMode .stopped).ctl.mode = .stopped ∧ (inMode .faulted).ctl.mode = .faulted
      ∧ (resetting false).awaitsReload = true
      ∧ calm.ctl.mode ≠ .stopped ∧ calm.ctl.mode ≠ .faulted ∧ calm.awaitsReload = false ∧ calm.running? = none
      ∧ ∀ (e : Entry) (j : Job) (k : OrderKind), j.kind = .entry e.tag →
          (atStage e j k).seq.job = some j ∧ JobOf (atStage e j k) j e ∧ (atStage e j k).ctl.mode = .ready
            ∧ (atStage e j k).awaitsReload = false := by
  refine ⟨rfl, rfl, rfl, by decide, by decide, rfl, rfl, fun e j k hk => ⟨rfl, ⟨hk, ?_⟩, rfl, rfl⟩⟩
  simp [State.entry?, atStage, withEntries]

theorem witness_RepeatRound :
    full.powered = true ∧ full.notices.repeatTimer.isSome = true ∧ full.notices.queue ≠ []
      ∧ (full.notices.queue.map (·.number)).Nodup := by decide +kernel

/-- For the statements that every step keeps an invariant: a state that has them, and a step that answers a next
state. -/
def opening : State := calm.withPending [.doorOpening]

theorem witness_PortOkKept : PortOk opening := by unfold PortOk; decide +kernel

theorem witness_BaysOkKept : BaysOk opening :=
  .cons ⟨by unfold BayOk; decide +kernel, rfl⟩ (.cons ⟨by unfold BayOk; decide +kernel, rfl⟩ .nil)

theorem witness_LabelsOkKept : LabelsOk opening := by unfold LabelsOk; decide +kernel

theorem witness_NoticesOkKept : NoticesOk opening := by
  refine ⟨by decide +kernel, ?_, by decide +kernel, by decide +kernel, by decide +kernel, by decide +kernel⟩
  exact fun i h => absurd h (Nat.not_lt_zero i)

theorem witness_QueueOkKept : QueueOk opening := by unfold QueueOk; decide +kernel

theorem witness_StoreOkKept : StoreOk opening :=
  ⟨fun _ h => Option.noConfusion rfl (heq_of_eq h), by decide +kernel, by decide +kernel,
    fun _ h => Option.noConfusion rfl (heq_of_eq h)⟩

theorem witness_MechanismOkKept : MechanismOk opening :=
  ⟨by decide +kernel, fun h => absurd h (by decide +kernel), by decide +kernel⟩

theorem witness_stepAnswers : ∃ t, step opening = .next t := ⟨_, rfl⟩

end Sys2Proof.Tests
end

/-! SUPPORT. The requests that make entries, MOVE, SCAN and STOW: their bodies are read as they are written, their
checks refuse in the order given, and a refusal changes the link alone. -/

namespace Sys2Proof.Machine

/-! ### Readings of what the layouts write (R178 to R180) -/

/-- The reading takes exactly the bytes `bs`, whatever follows them, and answers `x`. -/
def Reads {α : Type} (f : Reading α) (bs : List Byte) (x : α) : Prop :=
  ∀ (rest : List Byte) (o : Nat), f (bs ++ rest) o = .ok ⟨x, rest, o + bs.length⟩

theorem byteOf_toNat {n : Nat} (h : n < 256) : (byteOf n).toNat = n := Nat.mod_eq_of_lt h

theorem readByte_reads (b : Byte) : Reads readByte [b] b := fun _ _ => rfl

theorem readBelow_reads {bound : Nat} {b : Byte} (h : b.toNat < bound) : Reads (readBelow bound) [b] b.toNat :=
  fun _ _ => if_pos h

theorem readChars_reads (l : Label) (h : ∀ b ∈ l, 0x20 ≤ b.toNat ∧ b.toNat ≤ 0x7E) :
    Reads (readChars l.length) l l := by
  induction l with
  | nil => exact fun _ _ => rfl
  | cons b l ih =>
    intro rest o
    have hl := ih (fun c hc => h c (List.mem_cons_of_mem b hc)) rest (o + 1)
    simp [readChars, h b List.mem_cons_self, hl, Nat.add_assoc, Nat.add_comm 1]

theorem labelOk_iff (l : Label) :
    labelOk l = true ↔ (1 ≤ l.length ∧ l.length ≤ 16) ∧ ∀ b ∈ l, 0x20 ≤ b.toNat ∧ b.toNat ≤ 0x7E := by
  simp [labelOk]

theorem readOptLabel_reads {l : Option Label} (h : l.all labelOk = true) : Reads readOptLabel (labelField l) l := by
  cases l with
  | none => exact fun _ _ => rfl
  | some l =>
    intro rest o
    obtain ⟨⟨h1, h16⟩, hchars⟩ := (labelOk_iff l).1 h
    have hn : (byteOf l.length).toNat = l.length := byteOf_toNat (by omega)
    have hl := readChars_reads l hchars rest (o + 1)
    simp [labelField, readOptLabel, hn, hl, Nat.not_lt.2 h16, show l ≠ [] by rintro rfl; simp at h1,
      Nat.add_assoc, Nat.add_comm 1]

theorem readLabel_reads {l : Label} (h : labelOk l = true) : Reads readLabel (labelField (some l)) l := by
  intro rest o
  simp only [readLabel, readOptLabel_reads (l := some l) h rest o]

theorem readRef_reads {r : Ref} (h : r.wellFormed = true) : Reads readRef r.bytes r := by
  intro rest o
  cases r with
  | label l =>
    have hl := readLabel_reads h rest (o + 1)
    simp [readRef, readBelow, Ref.bytes, hl, bind, Except.bind, pure, Except.pure, Nat.add_assoc, Nat.add_comm 1]
  | logical n | physical n | bay n | port n | gripper n =>
    have hn : (byteOf n).toNat = n := byteOf_toNat (of_decide_eq_true h)
    simp [readRef, readBelow, readByte, Ref.bytes, hn, bind, Except.bind, pure, Except.pure]

theorem labelField_length {l : Option Label} (h : l.all labelOk = true) : (labelField l).length ≤ 17 := by
  cases l with
  | none => decide
  | some l =>
    obtain ⟨⟨-, h16⟩, -⟩ := (labelOk_iff l).1 h
    exact Nat.succ_le_succ h16

theorem Ref.bytes_length {r : Ref} (h : r.wellFormed = true) : r.bytes.length ≤ 18 := by
  cases r with
  | label l => exact Nat.succ_le_succ (labelField_length (l := some l) h)
  | logical n | physical n | bay n | port n | gripper n => exact Nat.le_of_ble_eq_true rfl

theorem MoveBody.wellFormed_iff (b : MoveBody) :
    b.wellFormed = true
      ↔ (b.source.wellFormed = true ∧ b.dest.wellFormed = true) ∧ b.expected.all labelOk = true := by
  simp [MoveBody.wellFormed]

theorem MoveBody.bytes_length {b : MoveBody} (h : b.wellFormed = true) : b.bytes.length ≤ Config.bodyMax := by
  obtain ⟨⟨hs, hd⟩, he⟩ := b.wellFormed_iff.1 h
  have := Ref.bytes_length hs
  have := Ref.bytes_length hd
  have := labelField_length he
  have : Config.bodyMax = 240 := rfl
  simp only [MoveBody.bytes, List.length_append, List.length_cons, List.length_nil]
  omega

theorem ScanBody.bytes_length (b : ScanBody) : b.bytes.length ≤ Config.bodyMax := Nat.le_of_ble_eq_true rfl

theorem tagRefBytes_length (t : Tag) {r : Ref} (h : r.wellFormed = true) :
    (tagRefBytes (t, r)).length ≤ Config.bodyMax :=
  (Nat.succ_le_succ (Ref.bytes_length h)).trans (by decide)

/-- VERIFY and SKIP_LABEL are read back from the flag byte that holds them. -/
theorem readBelow_flags (v k : Bool) :
    Reads (readBelow 4) [byteOf (bitsOf [v, k])] (bitsOf [v, k]) := by
  have h : (byteOf (bitsOf [v, k])).toNat = bitsOf [v, k] ∧ bitsOf [v, k] < 4 := by
    revert v k; decide
  have := readBelow_reads (bound := 4) (h.1.trans_lt h.2)
  rwa [h.1] at this

theorem bitsOf_testBit (v k : Bool) :
    (bitsOf [v, k]).testBit 0 = v ∧ (bitsOf [v, k]).testBit 1 = k := by
  revert v k; decide

theorem parseMove_bytes {b : MoveBody} (h : b.wellFormed = true) : parseMove b.bytes = .ok b := by
  obtain ⟨⟨hs, hd⟩, he⟩ := b.wellFormed_iff.1 h
  have hflags := readBelow_flags b.verify b.skipLabel
  obtain ⟨hv, hk⟩ := bitsOf_testBit b.verify b.skipLabel
  have hbytes : b.bytes = [b.tag] ++ ([byteOf (bitsOf [b.verify, b.skipLabel])]
      ++ (b.source.bytes ++ (b.dest.bytes ++ (labelField b.expected ++ [])))) := by
    simp [MoveBody.bytes]
  rw [hbytes]
  simp only [parseMove, readByte_reads _ _ _, hflags _ _, readRef_reads hs _ _, readRef_reads hd _ _,
    readOptLabel_reads he _ _, bind, Except.bind, Taken.close, hv, hk]

theorem parseScan_bytes (b : ScanBody) : parseScan b.bytes = .ok b := by
  obtain ⟨t, k, f, l⟩ := b
  cases k <;> rfl

theorem parseTagRef_bytes (t : Tag) {r : Ref} (h : r.wellFormed = true) :
    parseTagRef (tagRefBytes (t, r)) = .ok (t, r) := by
  have hbytes : tagRefBytes (t, r) = [t] ++ (r.bytes ++ []) := by simp [tagRefBytes]
  rw [hbytes]
  simp only [parseTagRef, readByte_reads _ _ _, readRef_reads h _ _, bind, Except.bind, Taken.close]

/-! ### The first failing check (R42, R44, R45) -/

/-- The status a chain of checks refuses with, if one of them fails. -/
def refusal? {α : Type} : Except Status α → Option Status
  | .error st => some st
  | .ok _ => none

theorem refusal?_eq_some {α : Type} {a : Except Status α} {st : Status} :
    refusal? a = some st ↔ a = .error st := by
  cases a <;> simp [refusal?]

/-- A check comes before all that follows it. -/
theorem refusal?_check_bind {α : Type} (o : Option Status) (f : Unit → Except Status α) :
    refusal? (check o >>= f) = o.or (refusal? (f ())) := by
  cases o <;> rfl

theorem refusal?_ok_bind {α β : Type} (x : α) (f : α → Except Status β) :
    refusal? (Except.ok x >>= f) = refusal? (f x) := rfl

theorem refusal?_pure {α : Type} (x : α) : refusal? (pure x : Except Status α) = none := rfl

/-- A check made in front of a refusal is the head of an if/else chain. -/
theorem ite_refusal_or {p : Prop} [Decidable p] (x y : Option Status) (st : Status) :
    (if p then some st else x).or y = if p then some st else x.or y := by
  split <;> rfl

theorem State.queueRefusal_or (s : State) (t : Tag) (x : Option Status) :
    (s.queueRefusal t).or x
      = if (s.entry? t).isSome then some .tagInUse
        else if 12 ≤ s.queue.entries.length then some .queueFull
        else x := by
  simp only [State.queueRefusal, ite_refusal_or, Option.none_or]

theorem State.tryMove_refusal (s : State) (b : MoveBody) :
    refusal? (s.tryMove b)
      = if s.ctl.mode = .faulted then some .modeRefused
        else if (s.entry? b.tag).isSome then some .tagInUse
        else if 12 ≤ s.queue.entries.length then some .queueFull
        else match s.resolve .moveSource b.source, s.resolve .moveDest b.dest with
          | .error x, _ => some x
          | .ok _, .error x => some x
          | .ok x, .ok d => if x = d then some .sameLocation else s.destRefusal d := by
  simp only [State.tryMove, refusal?_check_bind, ite_refusal_or, Option.none_or, State.queueRefusal_or]
  rcases s.resolve .moveSource b.source with x | x
  · rfl
  rcases s.resolve .moveDest b.dest with d | d
  · rfl
  simp only [refusal?_ok_bind, refusal?_check_bind, ite_refusal_or, Option.none_or, refusal?_pure, Option.or_none]

theorem State.tryScan_refusal (s : State) (b : ScanBody) :
    refusal? (s.tryScan b)
      = if s.ctl.mode = .faulted then some .modeRefused
        else if (s.entry? b.tag).isSome then some .tagInUse
        else if 12 ≤ s.queue.entries.length then some .queueFull
        else match s.resolveScan b.kind b.first.toNat b.last.toNat with
          | .error x => some x
          | .ok _ => none := by
  simp only [State.tryScan, refusal?_check_bind, ite_refusal_or, Option.none_or, State.queueRefusal_or]
  cases s.resolveScan b.kind b.first.toNat b.last.toNat <;> rfl

theorem State.tryStow_refusal (s : State) (t : Tag) (r : Ref) :
    refusal? (s.tryStow (t, r))
      = if s.ctl.mode ≠ .holding then some .notHolding
        else if (s.entry? t).isSome then some .tagInUse
        else if 12 ≤ s.queue.entries.length then some .queueFull
        else match s.resolve .stowDest r with
          | .error x => some x
          | .ok d => s.destRefusal d := by
  have hmode : (if s.ctl.mode = .holding then none else some Status.notHolding)
      = if s.ctl.mode ≠ .holding then some Status.notHolding else none := (ite_not ..).symm
  simp only [State.tryStow, refusal?_check_bind, hmode, ite_refusal_or, Option.none_or, State.queueRefusal_or]
  rcases s.resolve .stowDest r with x | d
  · rfl
  · simp only [refusal?_ok_bind, refusal?_check_bind, refusal?_pure, Option.or_none]

/-! ### A refused request (R170) -/

/-- The checks read nothing of the link, so they stand as they were when the frame was taken. -/
theorem State.tryMove_accepted (s : State) (q : Byte) (b : MoveBody) :
    (s.accepted q).tryMove b = s.tryMove b := rfl

theorem State.tryScan_accepted (s : State) (q : Byte) (b : ScanBody) :
    (s.accepted q).tryScan b = s.tryScan b := rfl

theorem State.tryStow_accepted (s : State) (q : Byte) (b : Tag × Ref) :
    (s.accepted q).tryStow b = s.tryStow b := rfl

/-- A request with a malformed body changes the link alone. -/
theorem State.linkOnly_of_malformed {α : Type} {c : Instr} {s : State} {q k : Byte} {body : List Byte}
    {parse : List Byte → Except Nat α} {act : State → α → State} {o : Nat}
    (hc : exec c s = s.request q k body parse act) (ht : s.takes q)
    (hb : body.length ≤ Config.bodyMax) (hp : parse body = .error o) :
    LinkOnly c s (some q) (some (replyFrame q k .badFormat [byteOf o])) false
      [⟨replyFrame q k .badFormat [byteOf o], false⟩] :=
  State.linkOnly_of_answered (by rw [hc, State.request_malformed ht k hb hp, State.settle_answered])

/-- An attempt to accept an entry that fails changes the link alone. -/
theorem State.linkOnly_of_refused {α : Type} {c : Instr} {s : State} {q k : Byte} {body : List Byte}
    {parse : List Byte → Except Nat α} {attempt : State → α → Attempt} {b : α} {st : Status}
    (hc : exec c s = s.request q k body parse fun s b => s.conclude q k (attempt s b)) (ht : s.takes q)
    (hb : body.length ≤ Config.bodyMax) (hp : parse body = .ok b)
    (hs : attempt (s.accepted q) b = attempt s b) (ha : refusal? (attempt s b) = some st) :
    LinkOnly c s (some q) (some (replyFrame q k st [])) false [⟨replyFrame q k st [], false⟩] := by
  refine State.linkOnly_of_answered ?_
  rw [hc, State.request_taken ht k hb hp, hs, refusal?_eq_some.1 ha, ← State.settle_answered]
  rfl

/-! ### O16 -/

/-- Settles O16 (R42, R44, R45): each request reads its body back, its chain of checks refuses with the first that
fails, and that refusal changes the link alone. -/
theorem entryRequestChecks : Obligations.EntryRequestChecks := by
  intro q s ht
  refine ⟨fun body o hb => ⟨?_, ?_, ?_⟩, fun b st hw h => ?_, fun b st h => ?_, fun t r st hw h => ?_⟩
  · exact State.linkOnly_of_malformed rfl ht hb
  · exact State.linkOnly_of_malformed rfl ht hb
  · exact State.linkOnly_of_malformed rfl ht hb
  · exact State.linkOnly_of_refused rfl ht (MoveBody.bytes_length hw) (parseMove_bytes hw)
      (s.tryMove_accepted q b) ((s.tryMove_refusal b).trans h)
  · exact State.linkOnly_of_refused rfl ht b.bytes_length (parseScan_bytes b)
      (s.tryScan_accepted q b) ((s.tryScan_refusal b).trans h)
  · exact State.linkOnly_of_refused rfl ht (tagRefBytes_length t hw) (parseTagRef_bytes t hw)
      (s.tryStow_accepted q (t, r)) ((s.tryStow_refusal t r).trans h)

end Sys2Proof.Machine

/-! SUPPORT. The Handler Link (chapter 11): every request's command takes its frame by R169, and what its block does
with an accepted frame either leaves the reply pending or leaves it cached (R170). -/

namespace Sys2Proof.Machine

/-! ### A frame that is not accepted (R169) -/

/-- A frame has been taken and the replies `fs` have been handed over for it; the exchange with the host stands. -/
def State.handing (s : State) (fs : List ReplyFrame) : State :=
  { s with link := { s.link with receiver := .hunting, replies := s.link.replies ++ fs } }

section
variable {s : State} {q : Byte} (k : Byte) {b : List Byte} (act : State → State) (hb : b.length ≤ Config.bodyMax)
  (hw : s.link.resetWait = none)
include hb hw

theorem State.takeFrame_repeated (hq : s.link.lastSeq = some q) (hp : s.link.replyPending = false) {f : Frame}
    (hf : s.link.cache = some f) : s.takeFrame q k b act = s.handing [⟨f, false⟩] := by
  simp [State.takeFrame, Nat.not_lt.2 hb, hw, hq, Link.repeatReply, hp, hf, State.handing]

theorem State.takeFrame_silent (hq : s.link.lastSeq = some q) (hp : s.link.replyPending = true) :
    s.takeFrame q k b act = s.handing [] := by
  simp [State.takeFrame, Nat.not_lt.2 hb, hw, hq, Link.repeatReply, hp, State.handing]

theorem State.takeFrame_busy (hq : s.link.lastSeq ≠ some q) (hp : s.link.replyPending = true) :
    s.takeFrame q k b act = s.handing [⟨replyFrame q k .linkBusy [], false⟩] := by
  simp [State.takeFrame, Nat.not_lt.2 hb, hw, hq, hp, Link.busy, State.handing]

end

/-- A command that hands replies over and does nothing else changes the link alone. -/
theorem State.linkOnly_of_handing {c : Instr} {s : State} {fs : List ReplyFrame}
    (h : exec c s = .next (State.settle s (s.handing fs))) :
    LinkOnly c s s.link.lastSeq s.link.cache s.link.replyPending fs := by
  obtain ⟨x, r, n, hn⟩ := Link.startNext_frame (s.handing fs).link
  refine ⟨_, h.trans (congrArg _ (s.settle_link _)), rfl, ?_, ?_, ?_, ?_, Link.startNext_handed _ _ _ rfl rfl⟩ <;>
    exact (congrArg _ hn).trans rfl

/-! ### The exchange with the host, and what leaves it -/

/-- What R169 and R170 keep of the exchange with the host: the last accepted SEQ, the reply cache and the pending-reply
mark. -/
def State.exchange (s : State) : Option Byte × Option Frame × Bool :=
  (s.link.lastSeq, s.link.cache, s.link.replyPending)

theorem State.exchange_of_noticeFrames {s t : State} (h : ∃ f, t.link = { s.link with noticeFrames := f }) :
    t.exchange = s.exchange := by
  obtain ⟨f, hf⟩ := h
  simp only [State.exchange, hf]

theorem Settled.exchange {u t : State} (h : Settled u t) : t.exchange = u.exchange := by
  simp only [State.exchange, h.lastSeq, h.cache, h.replyPending]

section
variable (s : State)

@[simp] theorem State.enterNotice_exchange (b : NoticeBody) : (s.enterNotice b).exchange = s.exchange := by
  have h := s.link.hand_frame ⟨s.notices.next, 1, b⟩
  cases b <;> exact State.exchange_of_noticeFrames h

@[simp] theorem State.askAttention_exchange (a : Attention) : (s.askAttention a).exchange = s.exchange := by
  obtain ⟨n, f, h⟩ := s.askAttention_frame a
  exact State.exchange_of_noticeFrames ⟨f, by rw [h]⟩

@[simp] theorem State.inventoryUpdate_exchange (f : Inventory → Inventory) :
    (s.inventoryUpdate f).exchange = s.exchange := by
  obtain ⟨n, w, h⟩ := s.inventoryUpdate_frame f
  exact State.exchange_of_noticeFrames ⟨w, by rw [h]⟩

@[simp] theorem State.setMode_exchange (m : LibMode) (c : ModeCause) (t : Option Tag) :
    (s.setMode m c t).exchange = s.exchange := by
  obtain ⟨p, n, f, h⟩ := s.setMode_frame m c t
  exact State.exchange_of_noticeFrames ⟨f, by rw [h]⟩

@[simp] theorem State.askCommit_exchange : s.askCommit.exchange = s.exchange := by
  obtain ⟨st, h⟩ := s.askCommit_frame
  rw [h]
  rfl

@[simp] theorem State.retire_exchange (p : Nat) (c : RetireCause) (t : Option Tag) :
    (s.retire p c t).exchange = s.exchange := by
  obtain ⟨st, n, f, h⟩ := s.retire_frame p c t
  exact State.exchange_of_noticeFrames ⟨f, by rw [h]⟩

@[simp] theorem State.mapChanged_exchange : s.mapChanged.exchange = s.exchange := s.askAttention_exchange _

@[simp] theorem State.deferReply_exchange (q k : Byte) : (s.deferReply q k).exchange = s.exchange := rfl

@[simp] theorem State.entryDone_exchange (t : Tag) (r : Result) (c : Option ScanCounts) :
    (s.entryDone t r c).exchange = s.exchange :=
  State.exchange_of_noticeFrames (s.entryDone_moved (P := fun _ => True) trivial r c).link

@[simp] theorem State.beginStage_exchange (st : Stage) : (s.beginStage st).exchange = s.exchange :=
  State.exchange_of_noticeFrames (s.beginStage_moved (P := fun _ => True) st).link

@[simp] theorem State.modEntry_exchange (t : Tag) (f : Entry → Entry) : (s.modEntry t f).exchange = s.exchange := rfl

@[simp] theorem State.modJob_exchange (f : Job → Job) : (s.modJob f).exchange = s.exchange := rfl

@[simp] theorem State.endHandOff_exchange : s.endHandOff.exchange = s.exchange := rfl

@[simp] theorem State.enterHolding_exchange (t : Tag) : (s.enterHolding t).exchange = s.exchange :=
  State.setMode_exchange _ _ _ _

@[simp] theorem State.callReturn_exchange (e : Entry) (c : Cause) : (s.callReturn e c).exchange = s.exchange := by
  unfold State.callReturn State.giveUp
  split <;> simp

@[simp] theorem State.interrupt_exchange (e : Entry) (i : Interruption) :
    (s.interrupt e i).exchange = s.exchange := by
  unfold State.interrupt
  split <;> simp

@[simp] theorem State.carryOn_exchange (t : Tag) : (s.carryOn t).exchange = s.exchange := by
  simp [State.carryOn]

@[simp] theorem State.divert_exchange (e : Entry) (d : Loc) : (s.divert e d).exchange = s.exchange := rfl

@[simp] theorem State.beginHoming_exchange : s.beginHoming.exchange = s.exchange :=
  State.beginStage_exchange _ _

@[simp] theorem State.homeIfReleased_exchange : s.homeIfReleased.exchange = s.exchange := by
  unfold State.homeIfReleased
  split <;> simp

@[simp] theorem State.restart_exchange (c : ModeCause) : (s.restart c).exchange = s.exchange := by
  unfold State.restart
  split <;> simp

@[simp] theorem State.softReset_exchange : s.softReset.exchange = s.exchange :=
  (State.restart_exchange _ _).trans (State.inventoryUpdate_exchange _ _)

@[simp] theorem State.restartRepeat_exchange : s.restartRepeat.exchange = s.exchange := rfl

@[simp] theorem State.enterSummary_exchange : s.enterSummary.exchange = s.exchange := by
  unfold State.enterSummary
  split
  · exact State.enterNotice_exchange _ _
  · rfl

end

@[simp] theorem State.endAll_exchange (ts : List Tag) (r : Result) :
    ∀ s : State, (s.endAll ts r).exchange = s.exchange := by
  induction ts with
  | nil => exact fun _ => rfl
  | cons t ts ih => exact fun s => (ih _).trans (s.entryDone_exchange t r none)

@[simp] theorem State.refill_exchange (bs : List NoticeBody) :
    ∀ s : State, (State.refill bs s).exchange = s.exchange := by
  induction bs with
  | nil => exact fun _ => rfl
  | cons b bs ih =>
    intro s
    unfold State.refill
    split
    · exact (ih _).trans (State.enterNotice_exchange _ b)
    · rfl

/-! ### How an accepted request ends (R170) -/

/-- The SEQ `q` is the last accepted one, and either its reply waits with the cache empty, or a reply with this SEQ and
KIND is cached and the mark is clear. -/
def Concluded (q k : Byte) (t : State) : Prop :=
  t.link.lastSeq = some q
    ∧ ((t.link.replyPending = true ∧ t.link.cache = none)
      ∨ (t.link.replyPending = false ∧ ∃ st fs, t.link.cache = some (replyFrame q k st fs)))

/-- What a block does with an accepted request concludes it. -/
def Concludes (q k : Byte) (act : State → State) : Prop :=
  ∀ s : State, s.exchange = (some q, none, true) → Concluded q k (act s)

section
variable {q k : Byte} {s t : State}

theorem Concluded.of_exchange (h : t.exchange = s.exchange) (hs : Concluded q k s) : Concluded q k t := by
  simp only [State.exchange, Prod.mk.injEq] at h
  obtain ⟨hq, hc, hp⟩ := h
  simpa only [Concluded, hq, hc, hp] using hs

/-- A reply that is still to be formed waits. -/
theorem concluded_of_deferred (h : s.exchange = (some q, none, true)) : Concluded q k s := by
  simp only [State.exchange, Prod.mk.injEq] at h
  obtain ⟨hq, hc, hp⟩ := h
  exact ⟨hq, .inl ⟨hp, hc⟩⟩

/-- A reply that is formed is cached. -/
theorem concluded_reply (h : s.exchange = (some q, none, true)) (st : Status) (fs : List Byte) (x : Bool) :
    Concluded q k (s.reply q k st fs x) :=
  ⟨congrArg Prod.fst h, .inr ⟨rfl, st, fs, rfl⟩⟩

theorem concluded_ok (h : s.exchange = (some q, none, true)) (fs : List Byte) : Concluded q k (s.ok q k fs) :=
  concluded_reply h .ok fs false

/-- An attempt that can only accept an entry of the request's own kind is concluded by ACCEPTED or by its refusal. -/
theorem concluded_conclude (h : s.exchange = (some q, none, true)) {a : Attempt}
    (ha : ∀ e, a = .ok e → e.kind.code = k) : Concluded q k (s.conclude q k a) := by
  cases a with
  | error st => exact concluded_reply h st [] false
  | ok e =>
    obtain rfl := ha e rfl
    exact concluded_reply (s := s.join e) h .accepted _ false

end

/-- What a bind answers, its second part answers. -/
theorem ok_of_bind {α β : Type} {x : Except Status α} {f : α → Except Status β} {b : β} (h : x >>= f = .ok b) :
    ∃ a, f a = .ok b := by
  cases x with
  | error st => cases h
  | ok a => exact ⟨a, h⟩

theorem State.tryMove_kind {s : State} {b : MoveBody} {e : Entry} (h : s.tryMove b = .ok e) : e.kind = .move := by
  obtain ⟨_, h⟩ := ok_of_bind h
  obtain ⟨_, h⟩ := ok_of_bind h
  obtain ⟨x, h⟩ := ok_of_bind h
  obtain ⟨d, h⟩ := ok_of_bind h
  obtain ⟨_, h⟩ := ok_of_bind h
  obtain ⟨_, h⟩ := ok_of_bind h
  cases h
  rfl

theorem State.tryScan_kind {s : State} {b : ScanBody} {e : Entry} (h : s.tryScan b = .ok e) : e.kind = .scan := by
  obtain ⟨_, h⟩ := ok_of_bind h
  obtain ⟨_, h⟩ := ok_of_bind h
  obtain ⟨xs, h⟩ := ok_of_bind h
  cases h
  rfl

theorem State.tryStow_kind {s : State} {b : Tag × Ref} {e : Entry} (h : s.tryStow b = .ok e) : e.kind = .stow := by
  obtain ⟨_, h⟩ := ok_of_bind h
  obtain ⟨_, h⟩ := ok_of_bind h
  obtain ⟨d, h⟩ := ok_of_bind h
  obtain ⟨_, h⟩ := ok_of_bind h
  cases h
  rfl

/-! ### The requests with more than one reply of their own -/

section
variable {q : Byte} {s : State} (h : s.exchange = (some q, none, true))
include h

theorem concluded_abortAll (stop : Bool) : Concluded q 0x0D#8 (s.abortAll q stop) := by
  unfold State.abortAll
  refine concluded_ok ?_ _
  split <;> simp [h]

theorem concluded_unlock : Concluded q 0x10#8 (s.unlock q) := by
  unfold State.unlock
  split
  · exact concluded_reply h _ _ _
  · split
    · exact concluded_reply h _ _ _
    · exact concluded_ok h _

theorem concluded_lockPort : Concluded q 0x11#8 (s.lockPort q) := by
  unfold State.lockPort
  split
  · exact concluded_ok h _
  · exact concluded_ok h _
  · exact concluded_ok h _
  · exact concluded_ok h _
  · exact concluded_reply h _ _ _

theorem concluded_changeMode (k : Byte) (m n : LibMode) : Concluded q k (s.changeMode q k m n) := by
  unfold State.changeMode
  split
  · exact concluded_ok (by simp [h]) _
  · exact concluded_reply h _ _ _

/-- The notices that enter after the reply leave it (R144). -/
theorem concluded_acknowledge (n : Word16) : Concluded q 0x18#8 (s.acknowledge q n) := by
  unfold State.acknowledge
  split
  · exact concluded_reply h _ _ _
  · next i _ =>
    have hr : Concluded q 0x18#8 ((s.removeNotices (s.notices.queue.take (i + 1))).ok q 0x18#8 [byteOf (i + 1)]) :=
      concluded_ok h _
    exact hr.of_exchange (by simp)

end

/-! ### Every request takes its frame -/

/-- The command carries a BODY a frame can have, takes it by R169, and concludes what it accepts. -/
structure TakesFrame (c : Instr) (q k : Byte) (b : List Byte) : Prop where
  body : b.length ≤ Config.bodyMax
  reaches : ∃ act, (∀ s : State, exec c s = s.event fun u => u.takeFrame q k b act) ∧ Concludes q k act

theorem TakesFrame.of_request {α : Type} {c : Instr} {q k : Byte} {b : List Byte} {parse : List Byte → Except Nat α}
    {act : State → α → State} (hb : bodyOk b = true) (hc : ∀ s, exec c s = s.request q k b parse act)
    (h : ∀ (x : α) (s : State), s.exchange = (some q, none, true) → Concluded q k (act s x)) :
    TakesFrame c q k b := by
  refine ⟨of_decide_eq_true hb, _, hc, fun s hs => ?_⟩
  split
  · exact concluded_reply hs _ _ _
  · exact h _ s hs

/-- A KIND outside the catalogue is taken like any request (R171). -/
theorem exec_unknownRequest {k : Byte} (hk : isRequestKind k = false) (q : Byte) (b : List Byte) (s : State) :
    exec (.unknownRequest q k b) s = s.event fun u => u.takeFrame q k b fun v => v.reply q k .unknownRequest := by
  simp only [exec, execUnknownRequest, hk, Bool.false_eq_true, if_false]

/-- The command of every well-formed request takes its frame. -/
theorem takesFrame_of_requestOf {c : Instr} {q k : Byte} {b : List Byte} (hr : requestOf c = some (q, k, b))
    (hw : c.wellFormed = true) : TakesFrame c q k b := by
  cases c with
  | describe q b =>
    cases hr
    exact .of_request hw (fun _ => rfl) fun _ _ h => concluded_ok h _
  | queryStatus q b =>
    cases hr
    exact .of_request hw (fun _ => rfl) fun _ _ h => concluded_ok h _
  | queryLocations q b =>
    cases hr
    refine .of_request hw (fun _ => rfl) fun r s h => ?_
    split
    · exact concluded_reply h _ _ _
    · exact concluded_ok h _
  | queryRequest q b =>
    cases hr
    refine .of_request hw (fun _ => rfl) fun t s h => ?_
    split
    · exact concluded_reply h _ _ _
    · exact concluded_ok h _
  | queryMap q b =>
    cases hr
    exact .of_request hw (fun _ => rfl) fun _ _ h => concluded_ok h _
  | move q b =>
    cases hr
    exact .of_request hw (fun _ => rfl) fun _ _ h =>
      concluded_conclude h fun _ he => congrArg ReqKind.code (State.tryMove_kind he)
  | scan q b =>
    cases hr
    exact .of_request hw (fun _ => rfl) fun _ _ h =>
      concluded_conclude h fun _ he => congrArg ReqKind.code (State.tryScan_kind he)
  | stow q b =>
    cases hr
    exact .of_request hw (fun _ => rfl) fun _ _ h =>
      concluded_conclude h fun _ he => congrArg ReqKind.code (State.tryStow_kind he)
  | confirm q b =>
    cases hr
    refine .of_request hw (fun _ => rfl) fun t s h => ?_
    split
    · exact concluded_reply h _ _ _
    · exact concluded_ok (by simp [h]) _
  | divert q b =>
    cases hr
    refine .of_request hw (fun _ => rfl) fun r s h => ?_
    split
    · exact concluded_reply h _ _ _
    · exact concluded_ok (by simp [h]) _
  | returnHome q b =>
    cases hr
    refine .of_request hw (fun _ => rfl) fun t s h => ?_
    split
    · exact concluded_reply h _ _ _
    · exact concluded_ok (by simp [h]) _
  | cancel q b =>
    cases hr
    refine .of_request hw (fun _ => rfl) fun t s h => ?_
    split
    · exact concluded_reply h _ _ _
    · split
      · exact concluded_ok (by simp [h]) _
      · exact concluded_reply h _ _ _
  | abortAll q b =>
    cases hr
    exact .of_request hw (fun _ => rfl) fun stop _ h => concluded_abortAll h stop
  | pause q b =>
    cases hr
    exact .of_request hw (fun _ => rfl) fun _ _ h => concluded_ok h _
  | resume q b =>
    cases hr
    exact .of_request hw (fun _ => rfl) fun _ _ h => concluded_ok h _
  | portUnlock q b =>
    cases hr
    exact .of_request hw (fun _ => rfl) fun _ _ h => concluded_unlock h
  | portLock q b =>
    cases hr
    exact .of_request hw (fun _ => rfl) fun _ _ h => concluded_lockPort h
  | maintenanceEnter q b =>
    cases hr
    exact .of_request hw (fun _ => rfl) fun _ _ h => concluded_changeMode h _ _ _
  | maintenanceLeave q b =>
    cases hr
    exact .of_request hw (fun _ => rfl) fun _ _ h => concluded_changeMode h _ _ _
  | setExposed q b =>
    cases hr
    refine .of_request hw (fun _ => rfl) fun n s h => ?_
    split
    · exact concluded_reply h _ _ _
    · refine concluded_of_deferred ?_
      rw [State.askCommit_exchange, State.deferReply_exchange]
      split
      · exact h
      · exact (State.mapChanged_exchange _).trans h
  | retireSlot q b =>
    cases hr
    refine .of_request hw (fun _ => rfl) fun p s h => ?_
    split
    · exact concluded_reply h _ _ _
    · exact concluded_of_deferred (by simp [h])
  | consolidate q b =>
    cases hr
    refine .of_request hw (fun _ => rfl) fun _ s h => ?_
    split
    · exact concluded_reply h _ _ _
    · refine concluded_of_deferred ?_
      rw [State.askCommit_exchange, State.deferReply_exchange, State.mapChanged_exchange]
      exact h
  | setParameters q b =>
    cases hr
    refine .of_request hw (fun _ => rfl) fun p s h => ?_
    split
    · exact concluded_reply h _ _ _
    · exact concluded_of_deferred ((State.askCommit_exchange _).trans h)
  | noticeAck q b =>
    cases hr
    exact .of_request hw (fun _ => rfl) fun n _ h => concluded_acknowledge h n
  | recover q b =>
    cases hr
    refine .of_request hw (fun _ => rfl) fun _ s h => ?_
    split
    · exact concluded_reply h _ _ _
    · split
      · exact concluded_reply h _ _ _
      · exact (concluded_ok h _).of_exchange (State.restart_exchange _ _)
  | resetSoft q b x =>
    cases hr
    obtain ⟨hb, hl⟩ := Bool.and_eq_true_iff.1 hw
    exact .of_request hb (fun _ => if_neg (bne_iff_ne.1 hl)) fun _ _ h =>
      (concluded_ok h _).of_exchange (State.softReset_exchange _)
  | resetFull q b =>
    cases hr
    obtain ⟨hb, hl⟩ := Bool.and_eq_true_iff.1 hw
    exact .of_request hb (fun _ => if_neg (bne_iff_ne.1 hl)) fun _ _ h =>
      (concluded_reply h .ok [] true).of_exchange rfl
  | unknownRequest q k b =>
    cases hr
    obtain ⟨hb, hk⟩ := Bool.and_eq_true_iff.1 hw
    exact ⟨of_decide_eq_true hb, _, exec_unknownRequest (by simpa using hk) q b,
      fun _ h => concluded_reply h .unknownRequest [] false⟩
  | _ => cases hr

/-! ### O6 -/

section
variable {c : Instr} {q k : Byte} {b : List Byte} {s : State} (hc : TakesFrame c q k b) (hpow : s.powered = true)
  (hwait : s.link.resetWait = none)
include hc hpow hwait

theorem TakesFrame.repeats {f : Frame} (hq : s.link.lastSeq = some q) (hp : s.link.replyPending = false)
    (hf : s.link.cache = some f) : LinkOnly c s (some q) (some f) false [⟨f, false⟩] := by
  obtain ⟨hb, act, hact, -⟩ := hc
  have h := hact s
  rw [State.event_powered hpow, State.takeFrame_repeated k act hb hwait hq hp hf] at h
  simpa only [hq, hf, hp] using State.linkOnly_of_handing h

theorem TakesFrame.silent (hq : s.link.lastSeq = some q) (hp : s.link.replyPending = true) :
    LinkOnly c s (some q) s.link.cache true [] := by
  obtain ⟨hb, act, hact, -⟩ := hc
  have h := hact s
  rw [State.event_powered hpow, State.takeFrame_silent k act hb hwait hq hp] at h
  simpa only [hq, hp] using State.linkOnly_of_handing h

theorem TakesFrame.busy (hq : s.link.lastSeq ≠ some q) (hp : s.link.replyPending = true) :
    LinkOnly c s s.link.lastSeq s.link.cache true [⟨replyFrame q k .linkBusy [], false⟩] := by
  obtain ⟨hb, act, hact, -⟩ := hc
  have h := hact s
  rw [State.event_powered hpow, State.takeFrame_busy k act hb hwait hq hp] at h
  simpa only [hp] using State.linkOnly_of_handing h

theorem TakesFrame.accepts (hq : s.link.lastSeq ≠ some q) (hp : s.link.replyPending = false) :
    ∃ t, exec c s = .next t ∧ Concluded q k t := by
  obtain ⟨hb, act, hact, hend⟩ := hc
  refine ⟨_, ?_, (hend (s.accepted q) rfl).of_exchange (State.settle_settled s _).exchange⟩
  rw [hact, State.event_powered hpow, State.takeFrame_accepted ⟨hpow, hwait, hp, hq⟩ k hb]

end

/-- Settles O6 (R169): every request's command takes its frame, and a frame that is taken has one of four ends. -/
theorem linkTakesGoodFrames : Obligations.LinkTakesGoodFrames := by
  intro c q k b s hr hw hpow hwait
  have hc := takesFrame_of_requestOf hr hw
  exact ⟨fun hq hp _ hf => hc.repeats hpow hwait hq hp hf, hc.silent hpow hwait, hc.busy hpow hwait,
    hc.accepts hpow hwait⟩

/-! ### O7 -/

/-- Settles O7 (R171): the row takes a KIND outside the catalogue without reading its BODY, and answers at once. -/
theorem unknownKindAnswered : Obligations.UnknownKindAnswered := by
  intro q k b s hk hb ht
  refine State.linkOnly_of_answered ?_
  rw [exec_unknownRequest hk, State.event_powered ht.1, State.takeFrame_accepted ht k hb, State.settle_answered]

end Sys2Proof.Machine

/-! SUPPORT. The invariants (O53 to O60): what every operation of the blocks keeps of them, said once for each operation,
so that an event keeps what its operations keep. -/

namespace Sys2Proof.Machine

/-! ### What an operation keeps -/

/-- A commit in flight writes the bank that is not the newest, with the next generation (R35). -/
def CommitOk (st : Store) : Prop :=
  ∀ c, st.commit = some c → st.newest ≠ some c.target ∧ c.image.generation = st.newestGen + 1

/-- The invariants that no part of an event suspends are kept from `s` to `t`; the mechanism's for an event taken in a
state with the property `A`. -/
structure Kept (A : Prop) (s t : State) : Prop where
  port : PortOk s → PortOk t
  bays : BaysOk s → BaysOk t
  labels : LabelsOk s → LabelsOk t
  notices : NoticesOk s → NoticesOk t
  queue : QueueOk s → QueueOk t
  mech : A → MechanismOk s → MechanismOk t

/-- Besides, the exchange with the host stands, the reply that waits too, and a commit is asked for at most. -/
structure Calm (A : Prop) (s t : State) : Prop extends Kept A s t where
  lastSeq : t.link.lastSeq = s.link.lastSeq
  replyPending : t.link.replyPending = s.link.replyPending
  resetWait : t.link.resetWait = s.link.resetWait
  wait : t.store.wait = s.store.wait
  commits : CommitOk s.store → CommitOk t.store
  inFlight : s.store.commit ≠ none → t.store.commit ≠ none
  commitPending : s.store.commitPending = true → t.store.commitPending = true

variable {A : Prop}

theorem Kept.refl (s : State) : Kept A s s := ⟨id, id, id, id, id, fun _ => id⟩

theorem Kept.trans {s t u : State} (h : Kept A s t) (k : Kept A t u) : Kept A s u :=
  ⟨k.port ∘ h.port, k.bays ∘ h.bays, k.labels ∘ h.labels, k.notices ∘ h.notices, k.queue ∘ h.queue,
    fun a => k.mech a ∘ h.mech a⟩

theorem Calm.refl (s : State) : Calm A s s := ⟨Kept.refl s, rfl, rfl, rfl, rfl, id, id, id⟩

theorem Calm.trans {s t u : State} (h : Calm A s t) (k : Calm A t u) : Calm A s u where
  toKept := h.toKept.trans k.toKept
  lastSeq := k.lastSeq.trans h.lastSeq
  replyPending := k.replyPending.trans h.replyPending
  resetWait := k.resetWait.trans h.resetWait
  wait := k.wait.trans h.wait
  commits := k.commits ∘ h.commits
  inFlight := k.inFlight ∘ h.inFlight
  commitPending := k.commitPending ∘ h.commitPending

theorem Calm.store {s t : State} (h : Calm A s t) (hs : StoreOk s) : StoreOk t := by
  obtain ⟨hc, hp, hr, hw⟩ := hs
  refine ⟨h.commits hc, by rw [h.replyPending, h.wait]; exact hp, by rw [h.replyPending, h.resetWait]; exact hr, ?_⟩
  intro w hwt
  rw [h.wait] at hwt
  obtain ⟨h1, h2, h3⟩ := hw w hwt
  exact ⟨h.lastSeq.trans h1, h.inFlight h2, h.commitPending ∘ h3⟩

theorem awaitsReload_of_resetWait {s t : State} (h : t.link.resetWait = s.link.resetWait) :
    t.awaitsReload = s.awaitsReload := by
  unfold State.awaitsReload
  rw [h]

theorem Calm.awaitsReload {s t : State} (h : Calm A s t) : t.awaitsReload = s.awaitsReload :=
  awaitsReload_of_resetWait h.resetWait

/-! ### The mechanism -/

/-- Neither the mode nor RESET FULL keeps the mechanism still. -/
def Active (s : State) : Prop := s.ctl.mode ≠ .stopped ∧ s.ctl.mode ≠ .faulted ∧ s.awaitsReload = false

/-- The stage timer runs exactly while an order is outstanding. -/
def TimerOk (m : Mech) : Prop := m.stageTimer.isSome = true ↔ m.outstanding.isSome = true

theorem MechanismOk.active {s : State} (h : MechanismOk s) (hn : ¬ Still s) : Active s := by
  obtain ⟨-, hs, -⟩ := h
  refine ⟨fun hm => hn (hs (.inl hm)), fun hm => hn (hs (.inr (.inl hm))), ?_⟩
  exact Bool.eq_false_iff.mpr fun hm => hn (hs (.inr (.inr hm)))

theorem MechanismOk.active_of_job {s : State} {j : Job} (h : MechanismOk s) (hj : s.seq.job = some j) : Active s :=
  h.active fun hs => by simp [hs.1] at hj

theorem mechanismOk_of_active {s : State} (ht : TimerOk s.mech) (ha : Active s) : MechanismOk s := by
  obtain ⟨h1, h2, h3⟩ := ha
  exact ⟨ht, by simp [h1, h2, h3], by simp [h3]⟩

theorem mechanismOk_of_still {s : State} (ht : TimerOk s.mech) (hs : Still s)
    (hm : s.awaitsReload = true → s.ctl.mode = .initializing) : MechanismOk s := ⟨ht, fun _ => hs, hm⟩

/-- A change of what the mechanism's invariant does not read. -/
theorem MechanismOk.congr {s t : State} (h : MechanismOk s) (hm : t.mech = s.mech) (hj : t.seq.job = s.seq.job)
    (hp : t.seq.picker = s.seq.picker) (hk : t.seq.parkTimer = s.seq.parkTimer) (hc : t.ctl.mode = s.ctl.mode)
    (hr : t.link.resetWait = s.link.resetWait) : MechanismOk t := by
  unfold MechanismOk Still at *
  rw [hm, hj, hp, hk, hc, awaitsReload_of_resetWait hr]
  exact h

/-- A job in flight may be given another form, and an order sent for it: such a mechanism is not still. -/
theorem Calm.of_job {s : State} {j : Job} (hj : s.seq.job = some j) (q : Sequencer) (m : Mech)
    (hm : TimerOk s.mech → TimerOk m) : Calm A s { s with seq := q, mech := m } :=
  { Calm.refl (A := A) s with
    mech := fun _ h => mechanismOk_of_active (hm h.1) (h.active_of_job hj) }

theorem timerOk_clear (m : Mech) : TimerOk m.clear := by simp [TimerOk, Mech.clear]

theorem timerOk_order (o : Order) (n : Byte) (k : Nat) : TimerOk ⟨some o, n, some k⟩ := by simp [TimerOk]

/-! ### The queue and the inventory -/

theorem QueueOk.congr {s t : State} (h : QueueOk s) (ht : t.queue.entries.map (·.tag) = s.queue.entries.map (·.tag)) :
    QueueOk t := by
  obtain ⟨hl, hn⟩ := h
  have hlen := congrArg List.length ht
  rw [List.length_map, List.length_map] at hlen
  exact ⟨hlen.le.trans hl, by unfold TagsApart; rw [ht]; exact hn⟩

/-- Entries changed where they stand keep their tags. -/
theorem map_tags {f : Entry → Entry} (hf : ∀ e, (f e).tag = e.tag) (es : List Entry) :
    (es.map f).map (·.tag) = es.map (·.tag) := by
  simp [Function.comp_def, hf]

theorem Inventory.contents_records (v : Inventory) :
    v.contents.records = v.records.map fun p => { p with claims := [] } := by
  simp [Inventory.contents, Inventory.mapAll, Inventory.records]

/-- Whether a record is one of a set of contents does not depend on its claims. -/
theorem Inventory.exists_of_contents {v w : Inventory} (h : w.contents = v.contents) {p : PlaceRec}
    (hp : p ∈ w.records) : ∃ o ∈ v.records, o.occ = p.occ ∧ o.label = p.label ∧ o.dup = p.dup := by
  have hm : { p with claims := [] } ∈ v.contents.records := by
    rw [← h, w.contents_records]
    exact List.mem_map_of_mem (f := fun p : PlaceRec => { p with claims := [] }) hp
  rw [v.contents_records, List.mem_map] at hm
  obtain ⟨o, ho, heq⟩ := hm
  simp only [PlaceRec.mk.injEq] at heq
  exact ⟨o, ho, heq.1, heq.2.1, heq.2.2.1⟩

theorem Inventory.holders_contents (v : Inventory) (l : Label) : v.contents.holders l = v.holders l := by
  simp only [Inventory.holders, v.contents_records, List.countP_map]
  rfl

theorem Inventory.holders_of_contents {v w : Inventory} (h : w.contents = v.contents) (l : Label) :
    w.holders l = v.holders l := by
  rw [← w.holders_contents, h, v.holders_contents]

/-- The duplicate flag a record should have reads its occupancy and label, and the labels the others hold. -/
theorem Inventory.duplicated_congr {v w : Inventory} (h : ∀ l, w.holders l = v.holders l) {p o : PlaceRec}
    (hocc : o.occ = p.occ) (hlab : o.label = p.label) : w.duplicated p = v.duplicated o := by
  unfold Inventory.duplicated PlaceRec.holds
  simp only [hocc, hlab, h]

theorem LabelsOk.congr {s t : State} (h : LabelsOk s) (hc : t.inv.contents = s.inv.contents) : LabelsOk t := by
  intro p hp
  obtain ⟨o, ho, hocc, hlab, hdup⟩ := Inventory.exists_of_contents hc hp
  obtain ⟨h1, h2⟩ := h o ho
  refine ⟨by rw [← hocc, ← hlab]; exact h1, ?_⟩
  rw [← hdup, h2, Inventory.duplicated_congr (Inventory.holders_of_contents hc) hocc hlab]

/-- The occupancies of the bays' locations do not depend on the claims. -/
theorem Inventory.bays_of_contents {v w : Inventory} (h : w.contents = v.contents) :
    w.bays.map (·.occ) = v.bays.map (·.occ) := by
  have hb := congrArg (fun u => u.bays.map (·.occ)) h
  simpa [Inventory.contents, Inventory.mapAll, Function.comp_def] using hb

/-- The bays' records and the occupancies of their locations agree. -/
def BaysAgree (bs : List Bay) (os : List Occ) : Prop := List.Forall₂ (fun b o => BayOk b ∧ o = b.state.occ) bs os

theorem baysOk_iff (s : State) : BaysOk s ↔ BaysAgree s.bays (s.inv.bays.map (·.occ)) := by
  unfold BaysOk BaysAgree
  rw [List.forall₂_map_right_iff]

theorem BaysOk.congr {s t : State} (h : BaysOk s) (hb : t.bays = s.bays) (hc : t.inv.contents = s.inv.contents) :
    BaysOk t := by
  rw [baysOk_iff] at h ⊢
  rw [hb, Inventory.bays_of_contents hc]
  exact h

/-- A change of bays that leaves each in order and in its state. -/
theorem BaysAgree.map {bs : List Bay} {os : List Occ} (h : BaysAgree bs os) (f : Bay → Bay)
    (hf : ∀ b, BayOk b → BayOk (f b) ∧ (f b).state.occ = b.state.occ) : BaysAgree (bs.map f) os := by
  unfold BaysAgree at *
  rw [List.forall₂_map_left_iff]
  refine h.imp ?_
  rintro b o ⟨hb, rfl⟩
  exact ⟨(hf b hb).1, (hf b hb).2.symm⟩

theorem forall₂_modify_modify {α β : Type} {r : α → β → Prop} {f : α → α} {g : β → β} :
    ∀ {x : List α} {y : List β}, List.Forall₂ r x y → ∀ n, (∀ a b, x[n]? = some a → r a b → r (f a) (g b)) →
      List.Forall₂ r (x.modify n f) (y.modify n g)
  | _, _, .nil, n, _ => by cases n <;> exact .nil
  | _, _, .cons h hs, 0, hf => by
    rw [List.modify_zero_cons, List.modify_zero_cons]
    exact .cons (hf _ _ rfl h) hs
  | _, _, .cons h hs, n + 1, hf => by
    rw [List.modify_succ_cons, List.modify_succ_cons]
    exact .cons h (forall₂_modify_modify hs n fun a b ha => hf a b (by simpa using ha))

theorem BaysAgree.modify {bs : List Bay} {os : List Occ} (h : BaysAgree bs os) (n : Nat) {f : Bay → Bay}
    {g : Occ → Occ}
    (hf : ∀ b, bs[n]? = some b → BayOk b → BayOk (f b) ∧ g b.state.occ = (f b).state.occ) :
    BaysAgree (bs.modify n f) (os.modify n g) :=
  forall₂_modify_modify h n fun b o hn hb => by
    obtain ⟨h1, h2⟩ := hb
    rw [h2]
    exact hf b hn h1

end Sys2Proof.Machine

namespace Sys2Proof.Machine

variable {A : Prop}

/-! ### Notices -/

/-- The notices of a queue are numbered consecutively up to `next`. -/
def Numbered (q : List Notice) (next : Word16) : Prop :=
  ∀ (i : Nat) (h : i < q.length), (q[i]'h).number = next - BitVec.ofNat 16 (q.length - i)

/-- The queue of notices by itself: at most 24, numbered consecutively, each sent 1 to 255 times. -/
def NoticeRun (n : Notices) : Prop :=
  n.queue.length ≤ Config.noticeCapacity ∧ Numbered n.queue n.next ∧ ∀ m ∈ n.queue, 1 ≤ m.count ∧ m.count ≤ 255

/-- The repeat timer runs exactly while the queue holds notices. -/
def RepeatOk (n : Notices) : Prop := n.repeatTimer.isSome = true ↔ n.queue ≠ []

/-- Nothing waits or is folded while a place is free. -/
def NothingBack (n : Notices) : Prop :=
  (n.admission = [] ∨ n.queue.length = Config.noticeCapacity)
    ∧ (n.summary = [] ∨ n.queue.length = Config.noticeCapacity)

theorem noticesOk_iff (s : State) :
    NoticesOk s ↔ NoticeRun s.notices ∧ NothingBack s.notices ∧ RepeatOk s.notices := by
  unfold NoticesOk NoticeRun Numbered NothingBack RepeatOk
  tauto

theorem NoticesOk.congr {s t : State} (h : NoticesOk s) (hn : t.notices = s.notices) : NoticesOk t := by
  rw [noticesOk_iff] at h ⊢
  rwa [hn]

theorem Numbered.snoc {q : List Notice} {next : Word16} (h : Numbered q next) (n : Notice) (hn : n.number = next) :
    Numbered (q ++ [n]) (next + 1) := by
  intro i hi
  rw [List.length_append, List.length_singleton] at hi
  rcases Nat.lt_succ_iff_lt_or_eq.mp hi with hlt | rfl
  · have hs : q.length + 1 - i = q.length - i + 1 := by omega
    rw [List.getElem_append_left hlt, h i hlt, List.length_append, List.length_singleton, hs, BitVec.ofNat_add]
    exact (add_sub_add_right_eq_sub _ _ _).symm
  · simp [hn]

theorem Numbered.drop {q : List Notice} {next : Word16} (h : Numbered q next) (k : Nat) :
    Numbered (q.drop k) next := by
  intro i hi
  rw [List.length_drop] at hi
  rw [List.getElem_drop, h (k + i) (by omega), List.length_drop]
  congr 2
  omega

theorem Numbered.map {q : List Notice} {next : Word16} (h : Numbered q next) {f : Notice → Notice}
    (hf : ∀ n, (f n).number = n.number) : Numbered (q.map f) next := by
  intro i hi
  simp only [List.getElem_map, hf, List.length_map]
  exact h i (by simpa using hi)

theorem hasPlace_iff (n : Notices) : n.hasPlace = true ↔ n.queue.length < Config.noticeCapacity := by
  simp [Notices.hasPlace]

/-- What entering a notice makes of the notices. -/
theorem State.enterNotice_notices (s : State) (b : NoticeBody) :
    (s.enterNotice b).notices =
      { s.notices with
        queue := s.notices.queue ++ [⟨s.notices.next, 1, b⟩], next := s.notices.next + 1,
        repeatTimer :=
          if s.notices.queue.isEmpty then some s.params.repeatInterval else s.notices.repeatTimer } := by
  cases b <;> rfl

theorem State.enterNotice_run {s : State} (h : NoticeRun s.notices) (hp : s.notices.hasPlace = true)
    (b : NoticeBody) : NoticeRun (s.enterNotice b).notices := by
  obtain ⟨hl, hn, hc⟩ := h
  rw [s.enterNotice_notices]
  refine ⟨?_, hn.snoc _ rfl, ?_⟩
  · rw [List.length_append]
    exact (hasPlace_iff _).mp hp
  · intro m hm
    rcases List.mem_append.mp hm with hm | hm
    · exact hc m hm
    · rw [List.mem_singleton.mp hm]
      exact ⟨le_refl 1, Nat.le_of_ble_eq_true rfl⟩

theorem State.enterNotice_repeat {s : State} (h : RepeatOk s.notices) (b : NoticeBody) :
    RepeatOk (s.enterNotice b).notices := by
  unfold RepeatOk at *
  rw [s.enterNotice_notices]
  cases hq : s.notices.queue <;> simp_all

/-- A notice that enters where nothing waits and nothing is folded. -/
theorem State.enterNotice_noticesOk {s : State} (h : NoticesOk s) (hp : s.notices.hasPlace = true)
    (ha : s.notices.admission = []) (hs : s.notices.summary = []) (b : NoticeBody) :
    NoticesOk (s.enterNotice b) := by
  obtain ⟨h1, -, h3⟩ := (noticesOk_iff s).mp h
  refine (noticesOk_iff _).mpr ⟨s.enterNotice_run h1 hp b, ?_, s.enterNotice_repeat h3 b⟩
  rw [NothingBack, s.enterNotice_notices]
  exact ⟨.inl ha, .inl hs⟩

theorem not_hasPlace {n : Notices} (h : NoticeRun n) (hp : ¬ n.hasPlace = true) :
    n.queue.length = Config.noticeCapacity := by
  rw [hasPlace_iff, not_lt] at hp
  exact le_antisymm h.1 hp

theorem State.askNotice_noticesOk {s : State} (h : NoticesOk s) (b : NoticeBody) : NoticesOk (s.askNotice b) := by
  obtain ⟨h1, ⟨h2, h3⟩, h4⟩ := (noticesOk_iff s).mp h
  unfold State.askNotice
  split
  · rename_i hc
    rw [Bool.and_eq_true, List.isEmpty_iff] at hc
    obtain ⟨ha, hp⟩ := hc
    have hs : s.notices.summary = [] :=
      h3.resolve_right fun hf => absurd ((hasPlace_iff _).mp hp) (by rw [hf]; exact lt_irrefl _)
    exact s.enterNotice_noticesOk h hp ha hs b
  · rename_i hc
    have hfull : s.notices.queue.length = Config.noticeCapacity := by
      rcases h2 with ha | hf
      · exact not_hasPlace h1 fun hp => hc (by simp [ha, hp])
      · exact hf
    exact (noticesOk_iff _).mpr ⟨h1, ⟨.inr hfull, .inr hfull⟩, h4⟩

theorem State.askAttention_noticesOk {s : State} (h : NoticesOk s) (a : Attention) :
    NoticesOk (s.askAttention a) := by
  obtain ⟨h1, ⟨h2, h3⟩, h4⟩ := (noticesOk_iff s).mp h
  unfold State.askAttention
  split
  · rename_i hc
    rw [Bool.and_eq_true, Bool.and_eq_true, List.isEmpty_iff, List.isEmpty_iff] at hc
    obtain ⟨⟨ha, hp⟩, hs⟩ := hc
    exact s.enterNotice_noticesOk h hp ha hs _
  · rename_i hc
    have hfull : s.notices.queue.length = Config.noticeCapacity := by
      rcases h2 with ha | hf
      · rcases h3 with hs | hf
        · exact not_hasPlace h1 fun hp => hc (by simp [ha, hp, hs])
        · exact hf
      · exact hf
    exact (noticesOk_iff _).mpr ⟨h1, ⟨.inr hfull, .inr hfull⟩, h4⟩

/-- What asking for an attention touches. -/
theorem State.askAttention_calm (s : State) (a : Attention) : Calm A s (s.askAttention a) := by
  have hn := fun h => s.askAttention_noticesOk h a
  obtain ⟨n, f, h⟩ := s.askAttention_frame a
  rw [h] at hn ⊢
  exact { Calm.refl (A := A) s with notices := hn }

theorem Queue.noticeIn_tags (q : Queue) (t : Tag) :
    (q.noticeIn t).entries.map (·.tag) = q.entries.map (·.tag) :=
  map_tags (fun e => by split <;> rfl) _

/-- Entering a notice changes no more than the notices, the frames that wait, an entry's notice mark and the confirm
timer. -/
theorem State.enterNotice_shape (s : State) (b : NoticeBody) :
    ∃ f q c, s.enterNotice b =
        { s with
          notices := (s.enterNotice b).notices, link := { s.link with noticeFrames := f }, queue := q,
          seq := { s.seq with confirmTimer := c } }
      ∧ q.entries.map (·.tag) = s.queue.entries.map (·.tag) := by
  obtain ⟨f, hf⟩ := s.link.hand_frame ⟨s.notices.next, 1, b⟩
  cases b
  case completionMove => exact ⟨f, _, _, by rw [← hf]; rfl, Queue.noticeIn_tags _ _⟩
  case completionScan => exact ⟨f, _, _, by rw [← hf]; rfl, Queue.noticeIn_tags _ _⟩
  all_goals exact ⟨f, _, _, by rw [← hf]; rfl, rfl⟩

/-- A notice that enters, where the notices stay as they should. -/
theorem State.enterNotice_calm (s : State) (b : NoticeBody) (h : NoticesOk s → NoticesOk (s.enterNotice b)) :
    Calm A s (s.enterNotice b) := by
  obtain ⟨f, q, c, heq, hq⟩ := s.enterNotice_shape b
  have hn : NoticesOk s → NoticesOk { s with notices := (s.enterNotice b).notices } :=
    fun k => (h k).congr rfl
  rw [heq]
  exact { Calm.refl (A := A) s with notices := hn, queue := fun k => k.congr hq }

theorem State.askNotice_calm (s : State) (b : NoticeBody) : Calm A s (s.askNotice b) := by
  have hn := fun h => s.askNotice_noticesOk h b
  unfold State.askNotice at hn ⊢
  split
  · rename_i hc
    rw [if_pos hc] at hn
    exact s.enterNotice_calm b hn
  · rename_i hc
    rw [if_neg hc] at hn
    exact { Calm.refl (A := A) s with notices := hn }

/-! ### The inventory -/

/-- A record holds a label only while it is OCCUPIED (R7). -/
def RecordOk (p : PlaceRec) : Prop := p.label.isSome = true → p.occ = .occupied

/-- A change of the inventory puts labels in OCCUPIED records only. -/
def KeepsRecords (f : Inventory → Inventory) : Prop :=
  ∀ v : Inventory, (∀ p ∈ v.records, RecordOk p) → ∀ p ∈ (f v).records, RecordOk p

/-- A change of the inventory leaves the bays' occupancies. -/
def KeepsBayOccs (f : Inventory → Inventory) : Prop :=
  ∀ v : Inventory, (f v).bays.map (·.occ) = v.bays.map (·.occ)

theorem mem_records (v : Inventory) (p : PlaceRec) :
    p ∈ v.records ↔ p ∈ v.slots ∨ p ∈ v.bays ∨ p ∈ v.cells ∨ p = v.gripper := by
  simp [Inventory.records]

theorem PlaceRec.set_ok (p : PlaceRec) (o : Occ) (l : Option Label) : RecordOk (p.set o l) := by
  unfold RecordOk PlaceRec.set
  by_cases h : o = .occupied <;> simp [h]

theorem mem_modify {α : Type} {f : α → α} {a : α} : ∀ {l : List α} {n : Nat}, a ∈ l.modify n f →
    a ∈ l ∨ ∃ b ∈ l, a = f b
  | [], n, h => by cases n <;> simp at h
  | x :: l, 0, h => by
    rw [List.modify_zero_cons, List.mem_cons] at h
    rcases h with rfl | h
    · exact .inr ⟨x, List.mem_cons_self, rfl⟩
    · exact .inl (List.mem_cons_of_mem _ h)
  | x :: l, n + 1, h => by
    rw [List.modify_succ_cons, List.mem_cons] at h
    rcases h with rfl | h
    · exact .inl List.mem_cons_self
    · rcases mem_modify h with h | ⟨b, hb, rfl⟩
      · exact .inl (List.mem_cons_of_mem _ h)
      · exact .inr ⟨b, List.mem_cons_of_mem _ hb, rfl⟩

/-- A changed location's record is among the records as they were, or as the change makes them. -/
theorem mem_records_modify {v : Inventory} {x : Loc} {f : PlaceRec → PlaceRec} {p : PlaceRec}
    (h : p ∈ (v.modify x f).records) : p ∈ v.records ∨ ∃ o ∈ v.records, p = f o := by
  have part : ∀ {l : List PlaceRec} {n : Nat}, (∀ o ∈ l, o ∈ v.records) → p ∈ l.modify n f →
      p ∈ v.records ∨ ∃ o ∈ v.records, p = f o := fun hl hp =>
    (mem_modify hp).imp (hl p) fun ⟨o, ho, he⟩ => ⟨o, hl o ho, he⟩
  simp only [mem_records] at part ⊢
  rw [mem_records] at h
  cases x with
  | slot n =>
    rcases h with h | h | h | h
    · exact part (fun o ho => .inl ho) h
    all_goals exact .inl (by simp [Inventory.modify] at h; simp [h])
  | bay n =>
    rcases h with h | h | h | h
    · exact .inl (.inl h)
    · exact part (fun o ho => .inr (.inl ho)) h
    all_goals exact .inl (by simp [Inventory.modify] at h; simp [h])
  | cell n =>
    rcases h with h | h | h | h
    · exact .inl (.inl h)
    · exact .inl (.inr (.inl h))
    · exact part (fun o ho => .inr (.inr (.inl ho))) h
    · exact .inl (.inr (.inr (.inr h)))
  | gripper =>
    rcases h with h | h | h | h
    · exact .inl (.inl h)
    · exact .inl (.inr (.inl h))
    · exact .inl (.inr (.inr (.inl h)))
    · exact .inr ⟨v.gripper, .inr (.inr (.inr rfl)), h⟩

theorem put_keepsRecords (x : Loc) (o : Occ) (l : Inventory → Option Label) :
    KeepsRecords fun v => v.put x o (l v) := by
  intro v hv p hp
  rcases mem_records_modify hp with h | ⟨q, -, rfl⟩
  · exact hv p h
  · exact q.set_ok _ _

theorem KeepsRecords.comp {f g : Inventory → Inventory} (hf : KeepsRecords f) (hg : KeepsRecords g) :
    KeepsRecords fun v => g (f v) := fun v hv => hg _ (hf v hv)

/-- A change of the occupancy or label of any location but a bay. -/
theorem put_keepsBayOccs {x : Loc} (hx : x.isBay = false) (v : Inventory) (o : Occ) (l : Option Label) :
    (v.put x o l).bays = v.bays := by
  cases x
  case bay => simp [Loc.isBay] at hx
  all_goals rfl

theorem gripperSensed_bays (v : Inventory) (g : Bool) : (v.gripperSensed g).bays = v.bays := rfl

theorem gripperSensed_keepsRecords (g : Bool) : KeepsRecords (·.gripperSensed g) := by
  intro v hv p hp
  rcases mem_records_modify hp with h | ⟨q, -, rfl⟩
  · exact hv p h
  · exact q.set_ok _ _

theorem Inventory.reflag_records (v : Inventory) :
    v.reflag.records = v.records.map fun p => { p with dup := v.duplicated p } := by
  simp [Inventory.reflag, Inventory.mapAll, Inventory.records]

theorem Inventory.reflag_holders (v : Inventory) (l : Label) : v.reflag.holders l = v.holders l := by
  simp only [Inventory.holders, v.reflag_records, List.countP_map]
  rfl

/-- Every flag is true once the flags are computed afresh. -/
theorem labelsOk_reflag {t : State} {v : Inventory} (ht : t.inv = v.reflag) (hv : ∀ p ∈ v.records, RecordOk p) :
    LabelsOk t := by
  intro p hp
  rw [ht] at hp ⊢
  rw [v.reflag_records, List.mem_map] at hp
  obtain ⟨o, ho, rfl⟩ := hp
  exact ⟨hv o ho, (Inventory.duplicated_congr v.reflag_holders rfl rfl).symm⟩

theorem LabelsOk.records {s : State} (h : LabelsOk s) : ∀ p ∈ s.inv.records, RecordOk p := fun p hp => (h p hp).1

theorem reflag_bayOccs (v : Inventory) : v.reflag.bays.map (·.occ) = v.bays.map (·.occ) := by
  simp [Inventory.reflag, Inventory.mapAll, Function.comp_def]

theorem State.inventoryUpdate_noticesOk {s : State} (h : NoticesOk s) (f : Inventory → Inventory) :
    NoticesOk (s.inventoryUpdate f) := by
  unfold State.inventoryUpdate
  dsimp only
  split
  · exact State.askAttention_noticesOk (NoticesOk.congr (t := { s with inv := (f s.inv).reflag }) h rfl) _
  · exact h.congr rfl

/-- An inventory update of what the bays' records do not follow. -/
theorem State.inventoryUpdate_calm (s : State) {f : Inventory → Inventory} (hr : KeepsRecords f)
    (hb : KeepsBayOccs f := by exact fun _ => rfl) : Calm A s (s.inventoryUpdate f) := by
  have hn := fun h => State.inventoryUpdate_noticesOk (s := s) h f
  obtain ⟨n, w, h⟩ := s.inventoryUpdate_frame f
  rw [h] at hn ⊢
  refine { Calm.refl (A := A) s with notices := hn, labels := ?labels, bays := ?bays }
  case labels => exact fun hl => labelsOk_reflag rfl (hr _ (LabelsOk.records hl))
  case bays =>
    intro hbs
    rw [baysOk_iff] at hbs ⊢
    dsimp only
    rw [reflag_bayOccs, hb]
    exact hbs

theorem map_modify_commute {α β : Type} {g : α → β} {f : α → α} {k : β → β} (h : ∀ a, g (f a) = k (g a)) :
    ∀ (l : List α) (n : Nat), (l.modify n f).map g = (l.map g).modify n k
  | [], n => by cases n <;> rfl
  | a :: l, 0 => by simp [List.modify_zero_cons, h]
  | a :: l, n + 1 => by simp [List.modify_succ_cons, map_modify_commute h l n]

/-- The bay monitor's update of one bay together with its location. -/
theorem State.bayChange_calm (s : State) (n : Nat) {f : Bay → Bay} {o : Occ} (l : Option Label)
    {more : Inventory → Inventory} (hm : KeepsRecords more) (hb : KeepsBayOccs more)
    (hf : ∀ b, BayOk b → BayOk (f b) ∧ (f b).state.occ = o) :
    Calm A s ((s.modBay n f).inventoryUpdate fun v => more (v.put (.bay n) o l)) := by
  have hn := fun h => State.inventoryUpdate_noticesOk (s := s.modBay n f) h fun v => more (v.put (.bay n) o l)
  obtain ⟨k, w, h⟩ := (s.modBay n f).inventoryUpdate_frame fun v => more (v.put (.bay n) o l)
  rw [h] at hn ⊢
  refine { Calm.refl (A := A) s with notices := fun k => hn (k.congr rfl), labels := ?labels, bays := ?bays }
  case labels =>
    exact fun hl => labelsOk_reflag rfl ((put_keepsRecords (.bay n) o fun _ => l).comp hm _ (LabelsOk.records hl))
  case bays =>
    intro hbs
    rw [baysOk_iff] at hbs ⊢
    dsimp only [State.modBay]
    rw [reflag_bayOccs, hb]
    have hput : ((s.inv.put (.bay n) o l).bays.map (·.occ)) = (s.inv.bays.map (·.occ)).modify n fun _ => o :=
      map_modify_commute (f := fun p => p.set o l) (k := fun _ => o) (fun _ => rfl) s.inv.bays n
    rw [hput]
    exact hbs.modify n fun b _ hok => ⟨(hf b hok).1, (hf b hok).2.symm⟩

/-- A bay that enters a state of its own: no timer and no eject survive it. -/
theorem Bay.enter_ok (b : Bay) {st : BayState} (h1 : st ≠ .loading) (h2 : st ≠ .ejecting) : BayOk (b.enter st) := by
  simp [BayOk, Bay.enter, h1, h2]

theorem State.bayUpdate_calm (s : State) (n : Nat) {st : BayState} (h1 : st ≠ .loading) (h2 : st ≠ .ejecting)
    (l : Option Label) {more : Inventory → Inventory} (hm : KeepsRecords more)
    (hb : KeepsBayOccs more := by exact fun _ => rfl) : Calm A s (s.bayUpdate n st l more) :=
  s.bayChange_calm n l hm hb fun b _ => ⟨b.enter_ok h1 h2, rfl⟩

theorem derivedState_settled (p : DrivePins) : derivedState p ≠ .loading ∧ derivedState p ≠ .ejecting := by
  unfold derivedState
  split_ifs <;> decide

end Sys2Proof.Machine

namespace Sys2Proof.Machine

variable {A : Prop}

/-! ### Entries and claims -/

/-- Entries changed where they stand, their tags kept. -/
theorem Calm.of_entries (s : State) {q : Queue}
    (h : q.entries.map (·.tag) = s.queue.entries.map (·.tag)) : Calm A s { s with queue := q } :=
  { Calm.refl (A := A) s with queue := fun k => k.congr h }

theorem State.modEntry_calm (s : State) (t : Tag) {f : Entry → Entry}
    (hf : ∀ e, (f e).tag = e.tag := by exact fun _ => rfl) : Calm A s (s.modEntry t f) :=
  Calm.of_entries s (map_tags (fun e => by split <;> simp [hf]) _)

/-- A change of the claims alone. -/
theorem Calm.of_claims (s : State) {v : Inventory} (h : v.contents = s.inv.contents) : Calm A s { s with inv := v } :=
  { Calm.refl (A := A) s with bays := fun k => k.congr rfl h, labels := fun k => k.congr h }

/-- A change of the bays' records that leaves each in order and in its state. -/
theorem Calm.of_bays (s : State) {f : Bay → Bay}
    (hf : ∀ b, BayOk b → BayOk (f b) ∧ (f b).state.occ = b.state.occ) : Calm A s { s with bays := s.bays.map f } :=
  { Calm.refl (A := A) s with
    bays := fun k => (baysOk_iff _).mpr (((baysOk_iff s).mp k).map f hf) }

/-- A change of one bay's record that leaves it in order and its location as occupied as it was. -/
theorem State.modBay_calm (s : State) (n : Nat) {f : Bay → Bay}
    (hf : ∀ b, s.bays[n]? = some b → BayOk b → BayOk (f b) ∧ (f b).state.occ = b.state.occ) :
    Calm A s (s.modBay n f) := by
  refine { Calm.refl (A := A) s with bays := fun k => (baysOk_iff _).mpr ?_ }
  have h := ((baysOk_iff s).mp k).modify n (g := id) fun b hb hok => ⟨(hf b hb hok).1, (hf b hb hok).2.symm⟩
  rwa [List.modify_id] at h

theorem Bay.forget_keeps (t : Tag) (b : Bay) (h : BayOk b) :
    BayOk (b.forget t) ∧ (b.forget t).state.occ = b.state.occ := by
  unfold Bay.forget
  split
  · split
    · exact ⟨h, rfl⟩
    · exact ⟨h, rfl⟩
  · exact ⟨h, rfl⟩

/-- The job's end leaves a mechanism that has to be still as it is. -/
theorem State.endJob_calm (s : State) : Calm A s { s with seq := s.seq.endJob } := by
  refine { Calm.refl (A := A) s with mech := fun _ h => ?_ }
  obtain ⟨ht, hs, hm⟩ := h
  refine ⟨ht, fun hr => ?_, hm⟩
  obtain ⟨-, ho, hp, hk⟩ := hs hr
  exact ⟨rfl, ho, by simp [Sequencer.endJob, hp, Picker.afterJob], hk⟩

theorem Entry.finish_tag (r : Result) (c : Option ScanCounts) (e : Entry) : (e.finish r c).tag = e.tag := rfl

theorem State.entryDone_calm (s : State) (t : Tag) (r : Result) (c : Option ScanCounts) :
    Calm A s (s.entryDone t r c) := by
  unfold State.entryDone
  split
  · exact Calm.refl s
  · rename_i e _
    have h1 := s.modEntry_calm (A := A) t (Entry.finish_tag r c)
    have h2 := Calm.of_claims (A := A) (s.modEntry t (Entry.finish r c)) (Inventory.contents_release t e.names s.inv)
    have h3 := Calm.of_bays (A := A) { s.modEntry t (Entry.finish r c) with inv := s.inv.release e.names t }
      (Bay.forget_keeps t)
    refine ((h1.trans h2).trans h3).trans (Calm.trans ?_ (State.askNotice_calm _ _))
    dsimp only
    split
    · exact State.endJob_calm _
    · exact Calm.refl _

/-- A fold of calm operations is calm. -/
theorem Calm.foldl {α : Type} {f : State → α → State} (hf : ∀ s a, Calm A s (f s a)) :
    ∀ (l : List α) (s : State), Calm A s (l.foldl f s)
  | [], s => Calm.refl s
  | a :: l, s => (hf s a).trans (Calm.foldl hf l (f s a))

theorem State.endAll_calm (s : State) (ts : List Tag) (r : Result) : Calm A s (s.endAll ts r) :=
  Calm.foldl (fun s t => s.entryDone_calm t r none) ts s

theorem State.cancelStows_calm (s : State) : Calm A s s.cancelStows := s.endAll_calm _ _

/-! ### The mode -/

/-- MODE_CHANGED asked for with whatever mode and timer it finds leaves the notices as they should be. -/
theorem State.setMode_noticesOk {s : State} (h : NoticesOk s) (m : LibMode) (c : ModeCause) (t : Option Tag) :
    NoticesOk (s.setMode m c t) :=
  State.askAttention_noticesOk
    (NoticesOk.congr
      (t := { s with
        ctl := { s.ctl with mode := m },
        seq := if m = .stopped ∨ m = .initializing then { s.seq with parkTimer := none } else s.seq }) h rfl) _

/-- A mode change, where the mechanism's invariant survives it. -/
theorem State.setMode_calm_of (s : State) (m : LibMode) (c : ModeCause) (t : Option Tag)
    (hk : A → MechanismOk s → MechanismOk (s.setMode m c t)) : Calm A s (s.setMode m c t) := by
  have hn := fun h => s.setMode_noticesOk h m c t
  obtain ⟨p, n, f, h⟩ := s.setMode_frame m c t
  rw [h] at hn hk ⊢
  exact { Calm.refl (A := A) s with notices := hn, mech := hk }

theorem State.setMode_mech (s : State) (m : LibMode) (c : ModeCause) (t : Option Tag) :
    (s.setMode m c t).mech = s.mech ∧ (s.setMode m c t).ctl.mode = m
      ∧ (s.setMode m c t).awaitsReload = s.awaitsReload := by
  obtain ⟨p, n, f, h⟩ := s.setMode_frame m c t
  rw [h]
  exact ⟨rfl, rfl, rfl⟩

/-- A mode change to a mode with a mechanism, while no reload is waited for. -/
theorem State.setMode_calm (s : State) {m : LibMode} (h1 : m ≠ .stopped) (h2 : m ≠ .faulted)
    (h3 : A → s.awaitsReload = false) (c : ModeCause) (t : Option Tag) : Calm A s (s.setMode m c t) := by
  obtain ⟨hm, hc, hw⟩ := s.setMode_mech m c t
  refine s.setMode_calm_of m c t fun a h => mechanismOk_of_active (hm ▸ h.1) ⟨?_, ?_, ?_⟩
  · rw [hc]; exact h1
  · rw [hc]; exact h2
  · rw [hw]; exact h3 a

/-- A mode change of a mechanism that stands still. -/
theorem State.setMode_calm_still (s : State) (m : LibMode) (hs : A → Still s)
    (h3 : A → s.awaitsReload = false) (c : ModeCause) (t : Option Tag) : Calm A s (s.setMode m c t) := by
  obtain ⟨hm, hc, hw⟩ := s.setMode_mech m c t
  refine s.setMode_calm_of m c t fun a h => mechanismOk_of_still (hm ▸ h.1) ?_ (by simp [hw, h3 a])
  obtain ⟨hj, ho, hp, hk⟩ := hs a
  refine ⟨?_, hm ▸ ho, ?_, ?_⟩
  all_goals
    unfold State.setMode
    dsimp only
    obtain ⟨n, f, h⟩ := State.askAttention_frame _ _
    rw [h]
    dsimp only
    split
  · exact hj
  · exact hj
  · exact hp
  · exact hp
  · rfl
  · exact hk

/-- What the return mode is recorded as is no part of an invariant. -/
theorem Calm.of_ret (s : State) (r : ReturnMode) : Calm A s { s with ctl := { s.ctl with ret := r } } :=
  { Calm.refl (A := A) s with }

theorem State.enterHolding_calm (s : State) (t : Tag) (h : A → s.awaitsReload = false) :
    Calm A s (s.enterHolding t) :=
  (Calm.of_ret s _).trans
    (State.setMode_calm { s with ctl := { s.ctl with ret := s.ctl.mode.recorded } } (by decide) (by decide)
      h _ _)

theorem ReturnMode.lib_active (r : ReturnMode) : r.lib ≠ .stopped ∧ r.lib ≠ .faulted := by cases r <;> decide

theorem State.leaveHolding_calm (s : State) (t : Tag) (h : A → s.awaitsReload = false) :
    Calm A s (s.leaveHolding t) :=
  (s.setMode_calm (ReturnMode.lib_active _).1 (ReturnMode.lib_active _).2 h _ _).trans (State.cancelStows_calm _)

/-! ### Orders and jobs -/

theorem State.beginStage_calm (s : State) (st : Stage) : Calm A s (s.beginStage st) := by
  unfold State.beginStage
  split
  · exact Calm.refl s
  · rename_i j hj
    exact Calm.of_job hj _ _ fun _ => timerOk_order _ _ _

theorem State.retryStage_calm (s : State) (st : Stage) : Calm A s (s.retryStage st) := by
  unfold State.retryStage
  split
  · exact Calm.refl s
  · rename_i j hj
    exact Calm.of_job hj _ _ fun _ => timerOk_order _ _ _

theorem State.modJob_calm (s : State) (f : Job → Job) : Calm A s (s.modJob f) := by
  unfold State.modJob
  cases hj : s.seq.job with
  | none =>
    have h : ({ s with seq := { s.seq with job := none } } : State) = s := by
      rw [← hj]
    rw [Option.map_none, h]
    exact Calm.refl s
  | some j => exact Calm.of_job hj _ s.mech id

/-- A job is taken up by a mechanism that need not be still. -/
theorem Calm.of_newJob (s : State) (h : A → Active s) (q : Sequencer) : Calm A s { s with seq := q } :=
  { Calm.refl (A := A) s with mech := fun a k => mechanismOk_of_active k.1 (h a) }

theorem State.clear_calm (s : State) (h : A → Active s) : Calm A s { s with mech := s.mech.clear } :=
  { Calm.refl (A := A) s with mech := fun a _ => mechanismOk_of_active (timerOk_clear _) (h a) }

/-- The halt of a mode change to STOPPED or FAULTED, while no reload is waited for. -/
theorem State.haltMode_calm (s : State) (m : LibMode) (c : ModeCause) (t : Option Tag)
    (h : A → s.awaitsReload = false) : Calm A s (s.setMode m c t).haltJob := by
  have hn := fun h => s.setMode_noticesOk h m c t
  obtain ⟨p, n, f, heq⟩ := s.setMode_frame m c t
  rw [heq] at hn ⊢
  rw [State.haltJob_frame]
  refine { Calm.refl (A := A) s with notices := hn, mech := fun a k => ?mech, port := fun k => ?port }
  case mech =>
    exact mechanismOk_of_still (timerOk_clear _) ⟨rfl, rfl, rfl, rfl⟩ fun hw =>
      absurd (h a) (by rw [show s.awaitsReload = true from hw]; decide)
  case port =>
    obtain ⟨h1, h2⟩ := k
    refine ⟨h1, Iff.trans ?_ h2⟩
    change s.port.mark.halted = .noMark ↔ _
    cases s.port.mark <;> simp [AuditMark.halted]

/-- The halt by itself. -/
theorem State.haltJob_calm (s : State) : Calm A s s.haltJob := by
  rw [State.haltJob_frame]
  refine { Calm.refl (A := A) s with mech := fun _ k => ?mech, port := fun k => ?port }
  case mech => exact mechanismOk_of_still (timerOk_clear _) ⟨rfl, rfl, rfl, rfl⟩ k.2.2
  case port =>
    obtain ⟨h1, h2⟩ := k
    refine ⟨h1, Iff.trans ?_ h2⟩
    change s.port.mark.halted = .noMark ↔ _
    cases s.port.mark <;> simp [AuditMark.halted]

/-- A stop or fault disturbs the stage location. -/
theorem State.unsettle_calm (s : State) (x : Option Loc) : Calm A s (s.unsettle x) := by
  unfold State.unsettle
  split
  · exact s.bayUpdate_calm _ (derivedState_settled _).1 (derivedState_settled _).2 _ (gripperSensed_keepsRecords _)
  · rename_i l hl
    refine s.inventoryUpdate_calm ((put_keepsRecords l .unknown fun _ => none).comp (gripperSensed_keepsRecords _)) ?_
    intro v
    cases l with
    | bay n => exact absurd rfl (hl n)
    | _ => rfl
  · exact s.inventoryUpdate_calm (gripperSensed_keepsRecords _)

theorem State.endHandOff_calm (s : State) : Calm A s s.endHandOff := by
  refine { Calm.refl (A := A) s with notices := fun k => ?_ }
  obtain ⟨h1, ⟨h2, h3⟩, h4⟩ := (noticesOk_iff s).mp k
  exact (noticesOk_iff _).mpr ⟨h1, ⟨h2.imp_left fun ha => by simp [State.endHandOff, ha], h3⟩, h4⟩

theorem State.mechanismFault_calm (s : State) (h : A → s.awaitsReload = false) :
    Calm A s s.mechanismFault := by
  unfold State.mechanismFault
  dsimp only
  have h1 := (s.haltMode_calm .faulted .mechanism (s.running?.map (·.tag)) h).trans
    (State.unsettle_calm _ s.stageLocation)
  split
  · exact h1.trans (State.entryDone_calm _ _ _ _)
  · exact h1

/-! ### The map store -/

/-- A commit asked for writes the bank that is not the newest. -/
theorem Store.target_ne (st : Store) : st.newest ≠ some st.target := by
  unfold Store.target
  split <;> simp_all

theorem Store.setBank_newest (st : Store) (i : BankId) (b : Bank) :
    (st.setBank i b).newest = st.newest ∧ (st.setBank i b).newestGen = st.newestGen
      ∧ (st.setBank i b).wait = st.wait ∧ (st.setBank i b).commitPending = st.commitPending := by
  cases i <;> exact ⟨rfl, rfl, rfl, rfl⟩

theorem State.startCommit_ok (s : State) : CommitOk s.startCommit.store := by
  rintro c ⟨⟩
  obtain ⟨h1, h2, -⟩ := s.store.setBank_newest s.store.target { s.store.bank s.store.target with checkMatches := false }
  refine ⟨?_, ?_⟩
  · change (s.store.setBank _ _).newest ≠ _
    rw [h1]
    exact s.store.target_ne
  · change s.store.newestGen + 1 = (s.store.setBank _ _).newestGen + 1
    rw [h2]

theorem State.startCommit_store (s : State) :
    s.startCommit.store.wait = s.store.wait ∧ s.startCommit.store.commitPending = s.store.commitPending
      ∧ s.startCommit.store.commit ≠ none := by
  obtain ⟨-, -, h3, h4⟩ :=
    s.store.setBank_newest s.store.target { s.store.bank s.store.target with checkMatches := false }
  exact ⟨h3, h4, Option.some_ne_none _⟩

theorem State.startCommit_calm (s : State) : Calm A s s.startCommit := by
  obtain ⟨h1, h2, h3⟩ := s.startCommit_store
  exact { Calm.refl (A := A) s with
    wait := h1, commits := fun _ => s.startCommit_ok, inFlight := fun _ => h3
    commitPending := fun k => h2.trans k }

theorem State.askCommit_calm (s : State) : Calm A s s.askCommit := by
  unfold State.askCommit
  split
  · exact s.startCommit_calm
  · exact { Calm.refl (A := A) s with commitPending := fun _ => rfl }

/-- The map and the parameters are no part of an invariant. -/
theorem Calm.of_map (s : State) (m : SlotMap) (p : Params) : Calm A s { s with map := m, params := p } :=
  { Calm.refl (A := A) s with }

theorem State.retire_calm (s : State) (p : Nat) (c : RetireCause) (t : Option Tag) : Calm A s (s.retire p c t) := by
  have h := Calm.of_map (A := A) s (s.map.retire s.nPhys p) s.params
  unfold State.retire
  dsimp only
  split
  · exact (h.trans (State.askAttention_calm _ _)).trans ((State.askAttention_calm _ _).trans (State.askCommit_calm _))
  · exact (h.trans (State.askAttention_calm _ _)).trans (State.askCommit_calm _)

theorem State.reportFailure_calm (s : State) (x : Option Loc) (t : Tag) : Calm A s (s.reportFailure x t) := by
  unfold State.reportFailure
  split
  · split
    · exact Calm.refl s
    · dsimp only
      split
      · exact Calm.of_map s _ s.params
      · split
        · exact (Calm.of_map s _ s.params).trans (State.retire_calm _ _ _ _)
        · exact (Calm.of_map s _ s.params).trans (State.askAttention_calm _ _)
  · exact Calm.refl s

theorem State.reportSuccess_calm (s : State) (x : Option Loc) : Calm A s (s.reportSuccess x) := by
  unfold State.reportSuccess
  split
  · exact Calm.of_map s _ s.params
  · exact Calm.refl s

/-! ### The port -/

theorem Entry.portChange_tag (a b : PortState) (e : Entry) : (e.portChange a b).tag = e.tag := by
  unfold Entry.portChange
  split_ifs <;> rfl

/-- The port takes a state with the lock and mark that belong to it. -/
theorem State.setPort_calm (s : State) (p : Port) (h : PortOk s → PortOk { s with port := p }) :
    Calm A s (s.setPort p) :=
  { Calm.refl (A := A) s with port := h, queue := fun k => k.congr (map_tags (Entry.portChange_tag _ _) _) }

end Sys2Proof.Machine

namespace Sys2Proof.Machine

variable {A : Prop}

/-! ### The sequencer -/

theorem Calm.free_of {s t : State} (h : Calm A s t) (k : A → s.awaitsReload = false) : A → t.awaitsReload = false :=
  fun a => h.awaitsReload.trans (k a)

theorem Calm.mech_of {s t : State} (h : Calm A s t) (k : A → MechanismOk s) : A → MechanismOk t :=
  fun a => h.mech a (k a)

theorem MechanismOk.free_of_job {s : State} {j : Job} (k : A → MechanismOk s) (hj : s.seq.job = some j) :
    A → s.awaitsReload = false := fun a => ((k a).active_of_job hj).2.2

theorem State.job_of_running {s : State} {e : Entry} (h : s.running? = some e) : ∃ j, s.seq.job = some j := by
  unfold State.running? at h
  split at h
  · exact ⟨_, ‹_›⟩
  · simp at h

theorem State.giveUp_calm (s : State) (e : Entry) (r : Result) (h : A → s.awaitsReload = false) :
    Calm A s (s.giveUp e r) :=
  have hd := s.entryDone_calm e.tag r none
  hd.trans (State.enterHolding_calm _ _ (hd.free_of h))

theorem State.callReturn_calm (s : State) (e : Entry) (c : Cause) (h : A → s.awaitsReload = false) :
    Calm A s (s.callReturn e c) := by
  unfold State.callReturn
  split
  · exact ((s.modEntry_calm e.tag).trans (State.modJob_calm _ _)).trans (State.beginStage_calm _ _)
  · exact s.giveUp_calm e _ h

/-- A boundary at which a calm continuation goes on. -/
theorem State.moveBoundary_calm (s : State) (j : Job) (e : Entry) {go : State → State} (hg : Calm A s (go s))
    (h : A → s.awaitsReload = false) : Calm A s (s.moveBoundary j e go) := by
  unfold State.moveBoundary
  split
  · split
    · exact hg
    · exact s.giveUp_calm e _ h
  · exact hg
  · split_ifs
    · exact hg
    · exact s.callReturn_calm e _ h
    · exact s.entryDone_calm _ _ _

theorem State.stowBoundary_calm (s : State) (j : Job) (e : Entry) {go : State → State} (hg : Calm A s (go s)) :
    Calm A s (s.stowBoundary j e go) := by
  unfold State.stowBoundary
  split
  · split
    · exact hg
    · exact s.entryDone_calm _ _ _
  · exact hg

theorem State.atBoundary_calm (s : State) {go : State → State} (hg : Calm A s (go s)) (h : A → MechanismOk s) :
    Calm A s (s.atBoundary go) := by
  unfold State.atBoundary
  split
  · exact Calm.refl s
  · rename_i j hj
    split
    · split
      · exact s.moveBoundary_calm _ _ hg (MechanismOk.free_of_job h hj)
      · exact s.stowBoundary_calm _ _ hg
      · exact hg
    · split
      · exact s.endJob_calm
      · exact hg
    · exact hg

theorem State.interrupt_calm (s : State) (e : Entry) (i : Interruption) (h : A → s.awaitsReload = false) :
    Calm A s (s.interrupt e i) := by
  unfold State.interrupt
  split
  · exact s.endHandOff_calm.trans (State.callReturn_calm _ _ _ h)
  · exact s.modJob_calm _

/-! ### Audits -/

theorem State.completeAudit_calm (s : State) : Calm A s s.completeAudit :=
  ((s.askAttention_calm _).trans
    (State.setPort_calm _ _ fun _ => by simp [PortOk])).trans (State.endJob_calm _)

theorem State.nextLocation_calm (s : State) (a : Audit) : Calm A s (s.nextLocation a) := by
  have travel := fun b => (s.modJob_calm (A := A) ({ · with audit := some b })).trans
    (State.beginStage_calm _ (.travel .scan))
  unfold State.nextLocation
  split
  · exact Calm.refl s
  · split
    · split
      · exact s.entryDone_calm _ _ _
      · split
        · exact travel _
        · exact s.entryDone_calm _ _ _
    · split
      · exact travel _
      · exact s.completeAudit_calm

theorem State.closeLocation_calm (s : State) (x : Bool) : Calm A s (s.closeLocation x) := by
  unfold State.closeLocation
  split
  · exact Calm.refl s
  · exact s.nextLocation_calm _

theorem State.beginAudit_calm (s : State) : Calm A s s.beginAudit := by
  unfold State.beginAudit
  split
  · exact Calm.refl s
  · split
    · exact s.beginStage_calm _
    · exact s.nextLocation_calm _

/-- What the sequencer puts at a location that is no bay. -/
theorem seqPut_keepsRecords (s : State) (x : Loc) (o : Occ) (l : Inventory → Option Label) :
    KeepsRecords fun v => s.seqPut x o (l v) v := by
  unfold State.seqPut
  split
  · exact put_keepsRecords x .unknown fun _ => none
  · exact put_keepsRecords x o l

theorem seqPut_bays (s : State) {x : Loc} (hx : x.isBay = false) (o : Occ) (l : Option Label) (v : Inventory) :
    (s.seqPut x o l v).bays = v.bays := by
  unfold State.seqPut
  split
  · exact put_keepsBayOccs hx v _ _
  · exact put_keepsBayOccs hx v _ _

theorem seqPut_keepsBayOccs (s : State) {x : Loc} (hx : x.isBay = false) (o : Occ) (l : Option Label) :
    KeepsBayOccs (s.seqPut x o l) := fun v => by rw [seqPut_bays s hx]

theorem Loc.not_isBay {x : Loc} (h : ∀ n, x = .bay n → False) : x.isBay = false := by
  cases x with
  | bay n => exact (h n rfl).elim
  | _ => rfl

theorem keepsRecords_id : KeepsRecords id := fun _ h => h

theorem State.applyProbe_calm (s : State) (x : Loc) (o : Occ) : Calm A s (s.applyProbe x o) := by
  unfold State.applyProbe
  split
  · split
    · exact s.bayUpdate_calm _ (by decide) (by decide) _ keepsRecords_id
    · exact Calm.refl s
  · rename_i hx
    exact s.inventoryUpdate_calm (seqPut_keepsRecords s x o fun _ => none) (seqPut_keepsBayOccs s (Loc.not_isBay hx) o none)

theorem State.applyRead_calm (s : State) (x : Loc) (l : Option Label) : Calm A s (s.applyRead x l) := by
  unfold State.applyRead
  split
  · split
    · exact s.bayUpdate_calm _ (by decide) (by decide) _ keepsRecords_id
    · exact Calm.refl s
  · rename_i hx
    exact s.inventoryUpdate_calm (seqPut_keepsRecords s x .occupied fun _ => l)
      (seqPut_keepsBayOccs s (Loc.not_isBay hx) .occupied l)

/-- A calm operation and then a boundary with a calm continuation. -/
theorem Calm.atBoundary {s t : State} (h : Calm A s t) (k : A → MechanismOk s) {go : State → State}
    (hg : Calm A t (go t)) : Calm A s (t.atBoundary go) :=
  h.trans (t.atBoundary_calm hg (h.mech_of k))

theorem State.probeEmpty_calm (s : State) (h : A → MechanismOk s) : Calm A s s.probeEmpty := by
  unfold State.probeEmpty
  split
  · exact Calm.refl s
  · exact (s.applyProbe_calm _ _).atBoundary h (State.closeLocation_calm _ _)

theorem State.probeOccupied_calm (s : State) (h : A → MechanismOk s) : Calm A s s.probeOccupied := by
  unfold State.probeOccupied
  split
  · exact Calm.refl s
  · refine (s.applyProbe_calm _ _).atBoundary h ?_
    split
    · exact State.closeLocation_calm _ _
    · exact State.beginStage_calm _ _

theorem State.probeFault_calm (s : State) (h : A → MechanismOk s) : Calm A s s.probeFault := by
  unfold State.probeFault
  split
  · exact Calm.refl s
  · refine s.atBoundary_calm ?_ h
    split
    · exact s.closeLocation_calm _
    · exact s.retryStage_calm _

theorem State.auditRead_calm (s : State) (l : Option Label) (h : A → MechanismOk s) : Calm A s (s.auditRead l) := by
  unfold State.auditRead
  split
  · exact Calm.refl s
  · exact (s.applyRead_calm _ _).atBoundary h (State.closeLocation_calm _ _)

/-! ### MOVE and STOW -/

theorem State.firstProper_calm (s : State) : Calm A s s.firstProper := by
  unfold State.firstProper
  split
  · exact s.beginAudit_calm
  · split
    · exact s.beginStage_calm _
    · exact s.beginStage_calm _
    · exact s.beginAudit_calm

theorem State.awaitConfirm_calm (s : State) (e : Entry) : Calm A s (s.awaitConfirm e) :=
  ((s.modEntry_calm e.tag).trans (State.modJob_calm _ _)).trans (State.askNotice_calm _ _)

theorem State.confirmTest_calm (s : State) : Calm A s s.confirmTest := by
  unfold State.confirmTest
  split
  · exact Calm.refl s
  · split
    · exact s.awaitConfirm_calm _
    · exact s.beginStage_calm _

theorem put_gripper_keepsRecords (o : Occ) (l : Option Label) : KeepsRecords (·.put .gripper o l) :=
  put_keepsRecords .gripper o fun _ => l

theorem State.takeUp_calm (s : State) (e : Entry) (x : Loc) : Calm A s (s.takeUp e x) := by
  unfold State.takeUp
  dsimp only
  split
  · rename_i n
    refine Calm.trans (s.bayUpdate_calm n ?_ ?_ none (put_gripper_keepsRecords _ _))
      (State.modBay_calm _ _ fun b _ hb => b.forget_keeps _ hb)
    all_goals split <;> decide
  · rename_i hx
    refine s.inventoryUpdate_calm
      ((seqPut_keepsRecords s x .empty fun _ => none).comp (put_gripper_keepsRecords _ _)) fun v => ?_
    exact seqPut_keepsBayOccs s (Loc.not_isBay hx) .empty none v

theorem State.pickHeld_calm (s : State) (h : A → MechanismOk s) : Calm A s s.pickHeld := by
  unfold State.pickHeld
  split
  · split
    · rename_i e _ _ x _
      refine (((s.takeUp_calm e x).trans (State.reportSuccess_calm _ _)).trans
        (State.modEntry_calm _ e.tag)).atBoundary h ?_
      split
      · exact State.confirmTest_calm _
      · exact State.beginStage_calm _ _
    · exact Calm.refl s
  · exact Calm.refl s

theorem State.findEmpty_calm (s : State) (x : Loc) : Calm A s (s.findEmpty x) := by
  unfold State.findEmpty
  split
  · exact s.bayUpdate_calm _ (derivedState_settled _).1 (derivedState_settled _).2 _ keepsRecords_id
  · rename_i hx
    exact s.inventoryUpdate_calm (seqPut_keepsRecords s x .empty fun _ => none)
      (seqPut_keepsBayOccs s (Loc.not_isBay hx) .empty none)

theorem State.pickNone_calm (s : State) : Calm A s s.pickNone := by
  unfold State.pickNone
  split
  · exact (s.findEmpty_calm _).trans (State.beginStage_calm _ _)
  · exact Calm.refl s

theorem State.reportIfExhausted_calm (s : State) (j : Job) (x : Option Loc) (t : Tag) :
    Calm A s (s.reportIfExhausted j x t) := by
  unfold State.reportIfExhausted
  split
  · exact s.reportFailure_calm x t
  · exact Calm.refl s

theorem State.pickFault_calm (s : State) : Calm A s s.pickFault := by
  unfold State.pickFault
  split
  · exact (s.reportIfExhausted_calm _ _ _).trans (State.beginStage_calm _ _)
  · exact Calm.refl s

theorem relabel_keepsRecords (l : Option Label) : KeepsRecords fun v => v.put .gripper v.gripper.occ l := fun v hv =>
  put_keepsRecords .gripper v.gripper.occ (fun _ => l) v hv

theorem State.identified_calm (s : State) (l : Option Label) (h : A → MechanismOk s) : Calm A s (s.identified l) := by
  unfold State.identified
  split
  · rename_i e _
    have h1 := s.modEntry_calm (A := A) e.tag (f := ({ · with labelRead := l }))
    dsimp only
    split
    · exact h1.atBoundary h (State.confirmTest_calm _)
    · exact (h1.trans (State.inventoryUpdate_calm _ (relabel_keepsRecords l))).atBoundary h (State.confirmTest_calm _)
  · exact Calm.refl s

/-- A change of a bay's record stands beside an inventory update, which does not read it. -/
theorem State.modBay_inventoryUpdate (s : State) (n : Nat) (g : Bay → Bay) (f : Inventory → Inventory) :
    (s.inventoryUpdate f).modBay n g = (s.modBay n g).inventoryUpdate f := by
  unfold State.inventoryUpdate
  dsimp only [State.modBay]
  split
  · unfold State.askAttention
    split <;> rfl
  · rfl

/-- A cartridge put into a bay: the bay is LOADING, and its load timer starts. -/
theorem State.loading_calm (s : State) (n : Nat) (l : Option Label) {more : Inventory → Inventory}
    (hm : KeepsRecords more) (hb : KeepsBayOccs more) (k : Nat) (w : Option (Tag × DriveWait)) :
    Calm A s ((s.bayUpdate n .loading l more).modBay n fun b =>
      { b with loadTimer := some k, waiting := w, loadResult := none }) := by
  unfold State.bayUpdate
  rw [State.modBay_inventoryUpdate]
  have hmm : (s.modBay n (·.enter .loading)).modBay n (fun b =>
        { b with loadTimer := some k, waiting := w, loadResult := none })
      = s.modBay n fun b =>
          { b.enter .loading with loadTimer := some k, waiting := w, loadResult := none } := by
    simp only [State.modBay, List.modify_modify_eq]
    rfl
  rw [hmm]
  exact s.bayChange_calm n l hm hb fun b _ => ⟨by simp [BayOk, Bay.enter], rfl⟩

theorem State.putDown_calm (s : State) (j : Job) (e : Entry) (x : Loc) : Calm A s (s.putDown j e x) := by
  unfold State.putDown
  dsimp only
  split
  · split
    · exact (s.inventoryUpdate_calm (put_gripper_keepsRecords _ _)).trans
        (State.modBay_calm _ _ fun b _ hb => ⟨hb, rfl⟩)
    · exact s.loading_calm _ _ (put_gripper_keepsRecords _ _) (fun _ => rfl) _ _
  · rename_i hx
    refine s.inventoryUpdate_calm
      ((seqPut_keepsRecords s x .occupied fun _ => s.inv.gripper.holds).comp (put_gripper_keepsRecords _ _)) fun v => ?_
    exact seqPut_keepsBayOccs s (Loc.not_isBay hx) .occupied s.inv.gripper.holds v

theorem State.placePlaced_calm (s : State) : Calm A s s.placePlaced := by
  unfold State.placePlaced
  split
  · split
    · rename_i j e _ _ _ x _
      exact (((s.putDown_calm j e x).trans (State.reportSuccess_calm _ _)).trans
        (State.modEntry_calm _ e.tag)).trans (State.beginStage_calm _ _)
    · exact Calm.refl s
  · exact Calm.refl s

theorem State.placeFault_calm (s : State) : Calm A s s.placeFault := by
  unfold State.placeFault
  split
  · exact (s.reportIfExhausted_calm _ _ _).trans (State.beginStage_calm _ _)
  · exact Calm.refl s

theorem State.endPlaced_calm (s : State) (e : Entry) : Calm A s (s.endPlaced e) := by
  unfold State.endPlaced
  split
  · split
    · exact s.entryDone_calm _ _ _
    · exact (s.modEntry_calm e.tag).trans (State.endJob_calm _)
  · exact s.entryDone_calm _ _ _

theorem State.retractPlaced_calm (s : State) (j : Job) (e : Entry) (h : A → s.awaitsReload = false) :
    Calm A s (s.retractPlaced j e) := by
  unfold State.retractPlaced
  split
  · exact s.entryDone_calm _ _ _
  · split
    · exact (s.leaveHolding_calm _ h).trans (State.endPlaced_calm _ _)
    · exact s.endPlaced_calm _

theorem State.retractPlaceFault_calm (s : State) {j : Job} (hj : s.seq.job = some j) (e : Entry)
    (h : A → MechanismOk s) : Calm A s (s.retractPlaceFault j e) := by
  unfold State.retractPlaceFault
  split_ifs
  · exact s.atBoundary_calm (s.retryStage_calm _) h
  · exact s.giveUp_calm e _ (MechanismOk.free_of_job h hj)
  · exact s.entryDone_calm _ _ _
  · exact s.callReturn_calm e _ (MechanismOk.free_of_job h hj)

theorem State.retractPickFault_calm (s : State) (j : Job) (e : Entry) (h : A → MechanismOk s) :
    Calm A s (s.retractPickFault j e) := by
  unfold State.retractPickFault
  split
  · exact s.atBoundary_calm (s.retryStage_calm _) h
  · exact s.entryDone_calm _ _ _

theorem State.retractDone_calm (s : State) (h : A → MechanismOk s) : Calm A s s.retractDone := by
  unfold State.retractDone
  split
  · rename_i hj _
    split
    · exact s.entryDone_calm _ _ _
    · exact s.retractPickFault_calm _ _ h
    · exact s.retractPlaced_calm _ _ (MechanismOk.free_of_job h hj)
    · exact s.retractPlaceFault_calm hj _ h
    · exact Calm.refl s
  · exact Calm.refl s

/-! ### TRAVEL, HOME, UNPARK and PARK -/

theorem State.afterTravel_calm (s : State) (t : TravelTo) : Calm A s (s.afterTravel t) := by
  unfold State.afterTravel
  split <;> exact s.beginStage_calm _

theorem State.travelReached_calm (s : State) (h : A → MechanismOk s) : Calm A s s.travelReached := by
  unfold State.travelReached
  split
  · exact s.atBoundary_calm (s.afterTravel_calm _) h
  · exact Calm.refl s

theorem State.travelFault_calm (s : State) (next : AfterHome) (h : A → MechanismOk s) :
    Calm A s (s.travelFault next) := by
  unfold State.travelFault
  split
  · exact Calm.refl s
  · rename_i j hj
    split
    · exact s.mechanismFault_calm (MechanismOk.free_of_job h hj)
    · exact (s.modJob_calm _).trans (State.beginStage_calm _ _)

theorem State.travelFailed_calm (s : State) (h : A → MechanismOk s) : Calm A s s.travelFailed := by
  unfold State.travelFailed
  split
  · exact s.travelFault_calm _ h
  · exact Calm.refl s

theorem State.homingReached_calm (s : State) (h : A → s.awaitsReload = false) : Calm A s s.homingReached := by
  have h1 : Calm A s { s with seq := s.seq.endJob, ctl := { s.ctl with ret := .ready } } :=
    s.endJob_calm.trans (Calm.of_ret _ _)
  have h2 := h1.trans (State.inventoryUpdate_calm _ (gripperSensed_keepsRecords s.pins.gripper))
  unfold State.homingReached
  dsimp only
  split
  · exact h2.trans (State.setMode_calm _ (by decide) (by decide) (h2.free_of h) _ _)
  · exact (h2.trans (State.setMode_calm _ (by decide) (by decide) (h2.free_of h) _ _)).trans (State.cancelStows_calm _)

theorem State.homeReached_calm (s : State) (h : A → MechanismOk s) : Calm A s s.homeReached := by
  unfold State.homeReached
  split
  · exact Calm.refl s
  · rename_i j hj
    split
    · exact s.homingReached_calm (MechanismOk.free_of_job h hj)
    · exact s.atBoundary_calm s.firstProper_calm h
    · exact s.atBoundary_calm (s.beginStage_calm _) h
    · exact Calm.refl s

theorem State.homeFailed_calm (s : State) (h : A → MechanismOk s) : Calm A s s.homeFailed := by
  unfold State.homeFailed
  split
  · exact Calm.refl s
  · rename_i j hj
    split
    · exact (s.modJob_calm _).trans (State.beginStage_calm _ _)
    · exact s.haltMode_calm _ _ _ (MechanismOk.free_of_job h hj)
    · exact s.mechanismFault_calm (MechanismOk.free_of_job h hj)

theorem State.parkEnds_calm (s : State) (p : Picker) (h : A → Active s) : Calm A s (s.parkEnds p) :=
  Calm.of_newJob s h _

theorem State.readTaken_calm (s : State) (l : Option Label) (h : A → MechanismOk s) : Calm A s (s.readTaken l) := by
  unfold State.readTaken
  split
  · exact s.identified_calm l h
  · exact s.auditRead_calm l h

/-! ### Taking an outcome -/

/-- The mechanism that has answered its order is active, and nothing is outstanding any more. -/
theorem MechanismOk.active_of_order {s : State} {o : Order} (h : MechanismOk s) (ho : s.mech.outstanding = some o) :
    Active s := h.active fun hs => by simp [hs.2.1] at ho

/-- Taking an outcome: what follows is calm from the state with no order outstanding, where the mechanism is active. -/
theorem State.takeOutcome_calm (s : State) (k : OrderKind) (n : Byte) (o : MechOutcome) {go : State → State}
    (h : A → MechanismOk s)
    (hg : (A → MechanismOk s.taken ∧ Active s.taken) → Calm A s.taken (go s.taken)) :
    Calm A s (s.takeOutcome k n o go) := by
  unfold State.takeOutcome
  split
  · rename_i hans
    obtain ⟨r, hr⟩ : ∃ r, s.mech.outstanding = some r := by
      unfold State.answers at hans
      split at hans
      · exact ⟨_, ‹_›⟩
      · simp at hans
    have hact := fun a => (h a).active_of_order hr
    exact (s.clear_calm hact).trans (hg fun a => ⟨mechanismOk_of_active (timerOk_clear _) (hact a), hact a⟩)
  · exact Calm.refl s

theorem State.sample_calm (s : State) (x : Sense) : Calm A s (s.sample x) := { Calm.refl (A := A) s with }

theorem State.lines_calm (s : State) (i : Fin 4) (f : DrivePins → DrivePins) : Calm A s (s.lines i f) :=
  { Calm.refl (A := A) s with }

theorem State.expired_calm (s : State) (k : OrderKind) (h : A → MechanismOk s) (ha : A → Active s) :
    Calm A s (s.expired k) := by
  cases k
  case home => exact s.homeFailed_calm h
  case travel => exact s.travelFailed_calm h
  case pick => exact s.pickFault_calm
  case place => exact s.placeFault_calm
  case retract => exact s.mechanismFault_calm fun a => (ha a).2.2
  case probe => exact s.probeFault_calm h
  case park => exact s.parkEnds_calm _ ha
  case unpark => exact s.travelFault_calm _ h
  case read => exact s.readTaken_calm _ h

/-! ### The arbiter -/

theorem State.assertEject_calm (s : State) (e : Entry) (n : Nat) (h : (s.bay n).state = .loaded) :
    Calm A s (s.assertEject e n) := by
  refine Calm.trans (s.modBay_calm n fun b hb hok => ?_) (State.modEntry_calm _ e.tag)
  have hn : (s.bay n) = b := by simp [State.bay, List.getD, hb]
  rw [hn] at h
  obtain ⟨-, -, hl⟩ := hok
  refine ⟨⟨by simp, by simp, ?_⟩, by simp [h, BayState.occ]⟩
  rw [hl, h]
  simp

theorem State.assertEjects_calm (s : State) : Calm A s s.assertEjects := by
  refine Calm.foldl (fun a e => ?_) _ s
  split
  · exact a.assertEject_calm e _ (State.ejectFor_some ‹_›).2
  · exact Calm.refl a

theorem State.cancelPark_calm (s : State) : Calm A s s.cancelPark := by
  refine { Calm.refl (A := A) s with mech := fun _ h => ?_ }
  obtain ⟨ht, hs, hm⟩ := h
  exact ⟨ht, fun hr => ⟨(hs hr).1, (hs hr).2.1, (hs hr).2.2.1, rfl⟩, hm⟩

theorem State.startPark_calm (s : State) : Calm A s s.startPark := by
  unfold State.startPark
  split
  · rename_i hc
    refine { Calm.refl (A := A) s with mech := fun _ h => ?_ }
    exact mechanismOk_of_active h.1 (h.active fun hs => by simp [hs.2.2.1] at hc)
  · exact Calm.refl s

theorem State.startJob_calm (s : State) (j : Job) (h : A → Active s) : Calm A s (s.startJob j) := by
  unfold State.startJob
  dsimp only
  split
  · exact (Calm.of_newJob s h _).trans (State.beginStage_calm _ _)
  · exact (Calm.of_newJob s h _).trans (State.beginStage_calm _ _)
  · exact (Calm.of_newJob s h _).trans (State.firstProper_calm _)

theorem State.startEntry_calm (s : State) (e : Entry) (h : A → Active s) : Calm A s (s.startEntry e) :=
  (s.modEntry_calm e.tag).trans (State.startJob_calm _ _ h)

theorem State.startAudit_calm (s : State) (h : A → Active s) (hp : s.port.state = .auditPending) :
    Calm A s s.startAudit := by
  have h1 : Calm A s { s with port := { s.port with mark := .running } } :=
    { Calm.refl (A := A) s with port := fun k => ⟨k.1, by simp [hp]⟩ }
  exact h1.trans (State.startJob_calm _ _ h)

/-- A mode that serves or permits a STOW is one in which the mechanism works. -/
theorem MechanismOk.active_of_permits {s : State} (h : MechanismOk s) {k : ReqKind}
    (hp : s.ctl.mode.permits k = true) : Active s := by
  obtain ⟨-, -, hm⟩ := h
  have hmode : s.ctl.mode ≠ .stopped ∧ s.ctl.mode ≠ .faulted ∧ s.ctl.mode ≠ .initializing := by
    generalize s.ctl.mode = m at hp ⊢
    cases k <;> cases m <;> simp_all [LibMode.permits, LibMode.serves]
  exact ⟨hmode.1, hmode.2.1, Bool.eq_false_iff.mpr fun hr => hmode.2.2 (hm hr)⟩

theorem State.permits_of_eligible {s : State} {e : Entry} (h : s.eligible e = true) :
    s.ctl.mode.permits e.kind = true := by
  simp only [State.eligible, State.mayRun, Bool.and_eq_true] at h
  exact h.1.1.2

theorem State.auditDue_iff (s : State) :
    s.auditDue = true ↔ s.port.state = .auditPending ∧ s.port.mark = .pending ∧ s.ctl.mode.serves = true
      ∧ s.queue.hold = false := by
  simp [State.auditDue, and_assoc]

theorem State.choices_calm (n : Nat) : ∀ s : State, (A → MechanismOk s) → Calm A s (State.choices n s) := by
  induction n with
  | zero => exact fun s _ => Calm.refl s
  | succ n ih =>
    intro s h
    have ha := s.assertEjects_calm (A := A)
    have hc := ha.trans (State.cancelPark_calm _)
    unfold State.choices
    split
    · dsimp only
      split
      · rename_i hdue
        obtain ⟨hp, -, hs, -⟩ := (State.auditDue_iff _).mp hdue
        exact hc.trans (State.startAudit_calm _
          (fun a => (hc.mech_of h a).active_of_permits (k := .move) hs) hp)
      · split
        · exact ha.trans (State.startPark_calm _)
        · rename_i e he
          have hperm := State.permits_of_eligible (List.find?_some he)
          split
          · rename_i r _
            have hd := hc.trans (State.entryDone_calm _ e.tag r none)
            exact hd.trans (ih _ (hd.mech_of h))
          · have hd := hc.trans (State.startEntry_calm _ e
              fun a => (hc.mech_of h a).active_of_permits (k := e.kind) hperm)
            exact hd.trans (ih _ (hd.mech_of h))
    · exact Calm.refl s

theorem State.choose_calm (old new : State) (h : A → MechanismOk new) : Calm A new (State.choose old new) := by
  unfold State.choose
  split
  · exact State.choices_calm _ _ h
  · exact Calm.refl new

theorem Calm.of_frames (s : State) {l : Link} (h : l.lastSeq = s.link.lastSeq ∧ l.replyPending = s.link.replyPending
    ∧ l.resetWait = s.link.resetWait) : Calm A s { s with link := l } :=
  { Calm.refl (A := A) s with
    lastSeq := h.1, replyPending := h.2.1, resetWait := h.2.2
    mech := fun _ k => k.congr rfl rfl rfl rfl rfl h.2.2 }

theorem State.settle_calm (old new : State) (h : A → MechanismOk new) : Calm A new (State.settle old new) := by
  refine (State.choose_calm old new h).trans ?_
  obtain ⟨x, r, n, hl⟩ := (State.choose old new).link.startNext_frame
  unfold State.settle
  dsimp only
  rw [hl]
  exact Calm.of_frames _ ⟨rfl, rfl, rfl⟩

end Sys2Proof.Machine

namespace Sys2Proof.Machine

variable {A : Prop}

/-! ### Events and requests -/

/-- What a whole event keeps: every invariant. -/
structure Good (A : Prop) (s t : State) : Prop extends Kept A s t where
  store : StoreOk s → StoreOk t

theorem Calm.good {s t : State} (h : Calm A s t) : Good A s t := ⟨h.toKept, h.store⟩

theorem Good.refl (s : State) : Good A s s := (Calm.refl s).good

theorem Good.trans {s t u : State} (h : Good A s t) (k : Good A t u) : Good A s u :=
  ⟨h.toKept.trans k.toKept, k.store ∘ h.store⟩

theorem Good.settle {s t : State} (h : Good A s t) (old : State) (k : A → MechanismOk s) :
    Good A s (State.settle old t) := h.trans (State.settle_calm old t fun a => h.mech a (k a)).good

theorem State.event_good {s t : State} {f : State → State} (k : A → MechanismOk s) (h : Good A s (f s))
    (ht : s.event f = .next t) : Good A s t := by
  unfold State.event at ht
  split at ht
  · obtain rfl := Host.Outcome.next.inj ht
    exact h.settle s k
  · obtain rfl := Host.Outcome.next.inj ht
    exact Good.refl s

/-- A request with this SEQ has been accepted and its reply is not formed yet (R169). -/
structure Asked (q : Byte) (s : State) : Prop where
  commits : CommitOk s.store
  replyPending : s.link.replyPending = true
  resetWait : s.link.resetWait = none
  wait : s.store.wait = none
  lastSeq : s.link.lastSeq = some q

/-- The block that owns the request has taken it: its reply is formed, or waits on a commit. -/
structure Served (A : Prop) (q : Byte) (s t : State) : Prop extends Kept A s t where
  store : Asked q s → StoreOk t

variable {q : Byte}

theorem Calm.asked {s t : State} (h : Calm A s t) (k : Asked q s) : Asked q t where
  commits := h.commits k.commits
  replyPending := h.replyPending.trans k.replyPending
  resetWait := h.resetWait.trans k.resetWait
  wait := h.wait.trans k.wait
  lastSeq := h.lastSeq.trans k.lastSeq

theorem Calm.served {s t u : State} (h : Calm A s t) (k : Served A q t u) : Served A q s u :=
  ⟨h.toKept.trans k.toKept, fun a => k.store (h.asked a)⟩

theorem Served.calm {s t u : State} (h : Served A q s t) (k : Calm A t u) : Served A q s u :=
  ⟨h.toKept.trans k.toKept, fun a => k.store (h.store a)⟩

/-- A change of the link alone that leaves RESET FULL's wait. -/
theorem Kept.of_link (s : State) {l : Link} (h : l.resetWait = s.link.resetWait) : Kept A s { s with link := l } :=
  { Kept.refl (A := A) s with mech := fun _ k => k.congr rfl rfl rfl rfl rfl h }

theorem State.reply_served (s : State) (k : Byte) (st : Status) (fs : List Byte) (c : Bool) :
    Served A q s (s.reply q k st fs c) where
  toKept := Kept.of_link s rfl
  store h := ⟨h.commits, by simp [State.reply, h.wait], by simp [State.reply], by simp [h.wait]⟩

theorem State.takeFrame_good (s : State) (q k : Byte) (b : List Byte) {act : State → State} (hm : A → MechanismOk s)
    (h : ∀ a : State, (A → MechanismOk a) → a.awaitsReload = false → Served A q a (act a)) :
    Good A s (s.takeFrame q k b act) := by
  have link : ∀ {l : Link}, l.lastSeq = s.link.lastSeq → l.replyPending = s.link.replyPending →
      l.resetWait = s.link.resetWait → Good A s { s with link := l } := fun h1 h2 h3 =>
    (Calm.of_frames s ⟨h1, h2, h3⟩).good
  unfold State.takeFrame
  dsimp only
  split
  · exact Good.refl s
  · split
    · exact link rfl rfl rfl
    · rename_i hr
      have hr : s.link.resetWait = none := by simpa using hr
      split
      · unfold Link.repeatReply
        split
        · exact link rfl rfl rfl
        · exact link rfl rfl rfl
      · split
        · exact link rfl rfl rfl
        · rename_i hp
          have hk : Kept A s { s with link := { s.link with receiver := .hunting : Link }.accept q } :=
            Kept.of_link s rfl
          have hs := h { s with link := { s.link with receiver := .hunting : Link }.accept q }
            (fun a => hk.mech a (hm a)) (by simp [State.awaitsReload, Link.accept, hr])
          refine ⟨hk.trans hs.toKept, fun hst => hs.store ?_⟩
          obtain ⟨hc, hw, -, -⟩ := hst
          have hp : s.link.replyPending = false := by simpa using hp
          exact ⟨hc, rfl, hr, by simpa [hp] using hw, rfl⟩

theorem State.request_good {α : Type} {s t : State} {q k : Byte} {b : List Byte} {parse : List Byte → Except Nat α}
    {act : State → α → State} (hm : A → MechanismOk s)
    (h : ∀ (a : State) (x : α), (A → MechanismOk a) → a.awaitsReload = false → Served A q a (act a x))
    (ht : s.request q k b parse act = .next t) : Good A s t := by
  refine State.event_good hm (s.takeFrame_good q k b hm fun a ha hw => ?_) ht
  split
  · exact a.reply_served _ _ _ _
  · exact h a _ ha hw

/-! ### The requests that make and steer entries -/

theorem Inventory.contents_claim (t : Tag) (xs : List Loc) : ∀ v : Inventory, (v.claim xs t).contents = v.contents := by
  induction xs with
  | nil => exact fun v => rfl
  | cons x xs ih =>
    intro v
    exact (ih _).trans (v.contents_modify x _ fun _ => rfl)

/-- An entry whose tag is free joins a queue with a place for it. -/
theorem State.join_calm (s : State) (e : Entry) (h : s.queueRefusal e.tag = none) : Calm A s (s.join e) := by
  have hq : QueueOk s → QueueOk { s with queue := (s.join e).queue } := by
    rintro ⟨-, hn⟩
    unfold State.queueRefusal at h
    split_ifs at h with h1 h2
    refine ⟨?_, ?_⟩
    · change (s.queue.entries ++ [_]).length ≤ _
      rw [List.length_append, List.length_singleton]
      exact Nat.lt_of_not_le h2
    · change ((s.queue.entries ++ [_]).map Entry.tag).Nodup
      rw [List.map_append, List.map_singleton, List.nodup_append]
      refine ⟨hn, List.nodup_singleton _, ?_⟩
      rintro a ha b hb rfl
      obtain ⟨o, ho, rfl⟩ := List.mem_map.mp ha
      refine h1 (List.find?_isSome.mpr ⟨o, ho, ?_⟩)
      simpa using hb
  have h1 : Calm A s { s with queue := (s.join e).queue } := { Calm.refl (A := A) s with queue := hq }
  exact h1.trans (Calm.of_claims _ (Inventory.contents_claim _ _ _))

/-- An attempt to accept makes an entry only with a free tag and a place in the queue. -/
def Attempt.Admits (s : State) (a : Attempt) : Prop := ∀ e, a = .ok e → s.queueRefusal e.tag = none

theorem check_ok {o : Option Status} {u : Unit} (h : check o = .ok u) : o = none := by
  cases o with
  | none => rfl
  | some st => simp [check] at h

theorem bind_ok {ε α β : Type} {x : Except ε α} {f : α → Except ε β} {b : β} (h : x >>= f = .ok b) :
    ∃ a, x = .ok a ∧ f a = .ok b := by
  cases x with
  | error st => cases h
  | ok a => exact ⟨a, rfl, h⟩

theorem State.tryMove_admits (s : State) (b : MoveBody) : Attempt.Admits s (s.tryMove b) := by
  intro e h
  unfold State.tryMove at h
  obtain ⟨_, -, h⟩ := bind_ok h
  obtain ⟨_, hq, h⟩ := bind_ok h
  obtain ⟨_, -, h⟩ := bind_ok h
  obtain ⟨_, -, h⟩ := bind_ok h
  obtain ⟨_, -, h⟩ := bind_ok h
  obtain ⟨_, -, h⟩ := bind_ok h
  cases h
  exact check_ok hq

theorem State.tryScan_admits (s : State) (b : ScanBody) : Attempt.Admits s (s.tryScan b) := by
  intro e h
  unfold State.tryScan at h
  obtain ⟨_, -, h⟩ := bind_ok h
  obtain ⟨_, hq, h⟩ := bind_ok h
  obtain ⟨_, -, h⟩ := bind_ok h
  cases h
  exact check_ok hq

theorem State.tryStow_admits (s : State) (b : Tag × Ref) : Attempt.Admits s (s.tryStow b) := by
  intro e h
  unfold State.tryStow at h
  obtain ⟨_, -, h⟩ := bind_ok h
  obtain ⟨_, hq, h⟩ := bind_ok h
  obtain ⟨_, -, h⟩ := bind_ok h
  obtain ⟨_, -, h⟩ := bind_ok h
  cases h
  exact check_ok hq

theorem State.conclude_served (s : State) (k : Byte) {a : Attempt} (h : Attempt.Admits s a) :
    Served A q s (s.conclude q k a) := by
  unfold State.conclude
  split
  · exact (s.join_calm _ (h _ rfl)).served (State.reply_served _ _ _ _ _)
  · exact s.reply_served _ _ _ _

theorem State.carryOn_calm (s : State) (t : Tag) : Calm A s (s.carryOn t) :=
  (s.endHandOff_calm.trans (State.modEntry_calm _ t)).trans (State.beginStage_calm _ _)

theorem State.divert_calm (s : State) (e : Entry) (d : Loc) : Calm A s (s.divert e d) :=
  (Calm.of_claims s ((Inventory.contents_claim _ _ _).trans (Inventory.contents_release _ _ _))).trans
    (State.modEntry_calm _ e.tag)

theorem State.abortAll_served (s : State) (stop : Bool) (h : s.awaitsReload = false) :
    Served A q s (s.abortAll q stop) := by
  have h1 := s.endAll_calm (A := A) (s.tagsWhere Entry.cancellable) .cancelled
  unfold State.abortAll
  dsimp only
  generalize (if stop = true then s.stoppable else none) = told
  cases told with
  | none => exact h1.served (State.reply_served _ _ _ _ _)
  | some e =>
    exact (h1.trans (State.interrupt_calm _ e .stop (h1.free_of fun _ => h))).served (State.reply_served _ _ _ _ _)

/-! ### The requests that set the block's modes -/

theorem Calm.of_hold (s : State) (b : Bool) : Calm A s { s with queue := { s.queue with hold := b } } :=
  Calm.of_entries s rfl

theorem State.unlock_served (s : State) : Served A q s (s.unlock q) := by
  unfold State.unlock
  split_ifs with h
  · exact s.reply_served _ _ _ _
  · exact s.reply_served _ _ _ _
  · rw [not_not] at h
    refine (s.setPort_calm _ fun k => ?_).served (State.reply_served _ _ _ _ _)
    exact ⟨by simp, k.2.trans (by simp [h])⟩

theorem State.lockPort_served (s : State) : Served A q s (s.lockPort q) := by
  unfold State.lockPort
  split
  · rename_i h
    refine (s.setPort_calm _ fun k => ?_).served (State.reply_served _ _ _ _ _)
    exact ⟨by simp, k.2.trans (by simp [h])⟩
  · exact (s.setPort_calm _ fun _ => by simp [PortOk]).served (State.reply_served _ _ _ _ _)
  · exact s.reply_served _ _ _ _
  · exact s.reply_served _ _ _ _
  · exact s.reply_served _ _ _ _

theorem State.changeMode_served (s : State) (k : Byte) (m : LibMode) {n : LibMode} (h1 : n ≠ .stopped)
    (h2 : n ≠ .faulted) (h : s.awaitsReload = false) : Served A q s (s.changeMode q k m n) := by
  unfold State.changeMode
  split
  · exact (s.setMode_calm h1 h2 (fun _ => h) _ _).served (State.reply_served _ _ _ _ _)
  · exact s.reply_served _ _ _ _

/-! ### Acknowledged notices -/

/-- Notices leave or enter: nothing changes but the notices, the frames that wait, the entries freed and their notice
marks, and the confirm timer. -/
def NoticesMove (s t : State) : Prop :=
  ∃ n f q c, t =
      { s with notices := n, link := { s.link with noticeFrames := f }, queue := q,
               seq := { s.seq with confirmTimer := c } }
    ∧ List.Sublist (q.entries.map (·.tag)) (s.queue.entries.map (·.tag))

theorem NoticesMove.refl (s : State) : NoticesMove s s := ⟨_, _, _, _, rfl, List.Sublist.refl _⟩

theorem NoticesMove.trans {s t u : State} (h : NoticesMove s t) (k : NoticesMove t u) : NoticesMove s u := by
  obtain ⟨n, f, q, c, rfl, hq⟩ := h
  obtain ⟨n', f', q', c', rfl, hq'⟩ := k
  exact ⟨_, _, _, _, rfl, hq'.trans hq⟩

theorem NoticesMove.calm {s t : State} (h : NoticesMove s t) (hn : NoticesOk s → NoticesOk t) : Calm A s t := by
  obtain ⟨n, f, q, c, rfl, hq⟩ := h
  refine { Calm.refl (A := A) s with notices := hn, queue := fun k => ?_ }
  obtain ⟨hl, ht⟩ := k
  refine ⟨?_, ht.sublist hq⟩
  have := hq.length_le
  rw [List.length_map, List.length_map] at this
  exact this.trans hl

theorem State.enterNotice_move (s : State) (b : NoticeBody) : NoticesMove s (s.enterNotice b) := by
  obtain ⟨f, q, c, h, hq⟩ := s.enterNotice_shape b
  exact ⟨_, f, q, c, h, by rw [hq]⟩

theorem State.refill_move (bs : List NoticeBody) : ∀ s : State, NoticesMove s (State.refill bs s) := by
  induction bs with
  | nil => exact fun s => NoticesMove.refl s
  | cons b r ih =>
    intro s
    unfold State.refill
    split
    · have h1 : NoticesMove s { s with notices := { s.notices with admission := r } } :=
        ⟨_, _, _, _, rfl, List.Sublist.refl _⟩
      exact (h1.trans (State.enterNotice_move _ b)).trans (ih _)
    · exact NoticesMove.refl s

theorem State.enterSummary_move (s : State) : NoticesMove s s.enterSummary := by
  unfold State.enterSummary
  split
  · have h1 : NoticesMove s { s with notices := { s.notices with summary := [] } } :=
      ⟨_, _, _, _, rfl, List.Sublist.refl _⟩
    exact h1.trans (State.enterNotice_move _ _)
  · exact NoticesMove.refl s

theorem State.restartRepeat_move (s : State) : NoticesMove s s.restartRepeat :=
  ⟨_, _, _, _, rfl, List.Sublist.refl _⟩

/-- The admission list enters up to the last free place. -/
theorem State.refill_run (bs : List NoticeBody) : ∀ s : State, NoticeRun s.notices → s.notices.admission = bs →
    NoticeRun (State.refill bs s).notices
      ∧ ((State.refill bs s).notices.admission = []
        ∨ (State.refill bs s).notices.queue.length = Config.noticeCapacity) := by
  induction bs with
  | nil => exact fun s h ha => ⟨h, .inl ha⟩
  | cons b r ih =>
    intro s h ha
    unfold State.refill
    split
    · rename_i hp
      refine ih _ (State.enterNotice_run (s := { s with notices := { s.notices with admission := r } }) h hp b) ?_
      rw [State.enterNotice_notices]
    · rename_i hp
      exact ⟨h, .inr (not_hasPlace h hp)⟩

/-- The summary enters, where a place is left for it. -/
theorem State.enterSummary_run {s : State} (h : NoticeRun s.notices)
    (ha : s.notices.admission = [] ∨ s.notices.queue.length = Config.noticeCapacity) :
    NoticeRun s.enterSummary.notices ∧ NothingBack s.enterSummary.notices := by
  unfold State.enterSummary
  split
  · rename_i hc
    simp only [Bool.and_eq_true, List.isEmpty_iff] at hc
    obtain ⟨⟨ha, hp⟩, -⟩ := hc
    refine ⟨State.enterNotice_run (s := { s with notices := { s.notices with summary := [] } }) h hp _, ?_⟩
    rw [NothingBack, State.enterNotice_notices]
    exact ⟨.inl ha, .inl rfl⟩
  · rename_i hc
    refine ⟨h, ha, ?_⟩
    rcases ha with ha | hf
    · by_cases hp : s.notices.hasPlace = true
      · exact .inl (by simpa [ha, hp] using hc)
      · exact .inr (not_hasPlace h hp)
    · exact .inr hf

theorem State.acknowledge_served (s : State) (n : Word16) : Served A q s (s.acknowledge q n) := by
  unfold State.acknowledge
  split
  · exact s.reply_served _ _ _ _
  · rename_i i _
    dsimp only
    generalize hg : s.notices.queue.take (i + 1) = gone
    have hmove := ((State.refill_move ((s.removeNotices gone).ok q 0x18#8 [byteOf (i + 1)]).notices.admission
      ((s.removeNotices gone).ok q 0x18#8 [byteOf (i + 1)])).trans (State.enterSummary_move _)).trans
        (State.restartRepeat_move _)
    have hn : NoticesOk s → NoticesOk (State.refill ((s.removeNotices gone).ok q 0x18#8 [byteOf (i + 1)]).notices.admission
        ((s.removeNotices gone).ok q 0x18#8 [byteOf (i + 1)])).enterSummary.restartRepeat := by
      intro h
      obtain ⟨⟨hl, hnum, hc⟩, -, -⟩ := (noticesOk_iff s).mp h
      have hrun : NoticeRun ((s.removeNotices gone).ok q 0x18#8 [byteOf (i + 1)]).notices :=
        ⟨(List.length_drop ▸ Nat.sub_le _ _).trans hl, hnum.drop _, fun m hm => hc m (List.mem_of_mem_drop hm)⟩
      obtain ⟨h1, h2⟩ := State.refill_run _ _ hrun rfl
      obtain ⟨h3, h4⟩ := State.enterSummary_run h1 h2
      refine (noticesOk_iff _).mpr ⟨h3, h4, ?_⟩
      unfold RepeatOk State.restartRepeat
      dsimp only
      split <;> simp_all
    -- the reply stands between what leaves and what enters, and reads neither
    have h1 : Served A q s (s.reply q 0x18#8 .ok [byteOf (i + 1)]) := s.reply_served _ _ _ _
    have h2 : NoticesMove (s.reply q 0x18#8 .ok [byteOf (i + 1)]) ((s.removeNotices gone).ok q 0x18#8 [byteOf (i + 1)]) :=
      ⟨_, _, _, _, rfl, List.filter_sublist.map _⟩
    exact h1.calm ((h2.trans hmove).calm fun k => hn (k.congr rfl))

/-! ### RECOVER and RESET -/

theorem State.beginHoming_calm (s : State) (h : A → Active s) : Calm A s s.beginHoming :=
  (Calm.of_newJob s h _).trans (State.beginStage_calm _ _)

theorem State.restart_calm (s : State) (c : ModeCause) (hs : A → Still s) (h : A → s.awaitsReload = false) :
    Calm A s (s.restart c) := by
  have hmode : s.ctl.stopLine = true ∨ s.startMode = .initializing := by
    unfold State.startMode
    split <;> simp_all
  unfold State.restart
  split
  · rename_i hm
    unfold State.homeIfReleased
    split
    · exact Calm.refl s
    · rename_i hl
      have hi := hmode.resolve_left hl
      exact s.beginHoming_calm fun a => ⟨by rw [hm, hi]; decide, by rw [hm, hi]; decide, h a⟩
  · have h1 := s.setMode_calm_still (A := A) s.startMode hs h c none
    obtain ⟨-, hm, -⟩ := s.setMode_mech s.startMode c none
    have hl : (s.setMode s.startMode c).ctl.stopLine = s.ctl.stopLine := by
      obtain ⟨p, n, f, heq⟩ := s.setMode_frame s.startMode c none
      rw [heq]
    unfold State.homeIfReleased
    split
    · exact h1
    · rename_i hr
      rw [hl] at hr
      have hi := hmode.resolve_left hr
      exact h1.trans (State.beginHoming_calm _ fun a =>
        ⟨by rw [hm, hi]; decide, by rw [hm, hi]; decide, h1.free_of h a⟩)

theorem State.discardEntries_calm (s : State) : Calm A s s.discardEntries := by
  have h1 : Calm A s { s with inv := s.inv.mapAll fun p => { p with claims := [] } } :=
    Calm.of_claims s (by simp [Inventory.contents, Inventory.mapAll_mapAll, Function.comp_def])
  exact h1.trans { Calm.refl (A := A) _ with queue := fun _ => ⟨Nat.zero_le _, List.nodup_nil⟩ }

theorem noticesOk_empty {t : State} (n : Word16) (h : t.notices = ⟨[], [], [], n, none⟩) : NoticesOk t := by
  rw [noticesOk_iff, h]
  exact ⟨⟨Nat.zero_le _, fun i hi => absurd hi (Nat.not_lt_zero i), by simp⟩, ⟨.inl rfl, .inl rfl⟩,
    by simp [RepeatOk]⟩

theorem State.emptyNotices_calm (s : State) : Calm A s s.emptyNotices :=
  { Calm.refl (A := A) s with notices := fun _ => noticesOk_empty _ rfl }

theorem forall₂_mapIdx {α β : Type} {r r' : α → β → Prop} {f : Nat → α → α} {g : Nat → β → β}
    (h : ∀ n a b, r a b → r' (f n a) (g n b)) {x : List α} {y : List β} (hxy : List.Forall₂ r x y) :
    List.Forall₂ r' (x.mapIdx f) (y.mapIdx g) := by
  induction hxy generalizing f g with
  | nil => exact .nil
  | cons hab _ ih =>
    rw [List.mapIdx_cons, List.mapIdx_cons]
    exact .cons (h 0 _ _ hab) (ih fun n a b => h (n + 1) a b)

/-- The records of the reset's update: labels stand in OCCUPIED records only. -/
theorem deriveBayPlaces_keepsRecords (s : State) : KeepsRecords s.deriveBayPlaces := by
  intro v hv p hp
  rw [mem_records] at hp
  rcases hp with h | h | h | h
  · exact hv p ((mem_records v p).mpr (.inl h))
  · obtain ⟨i, hi, rfl⟩ := List.mem_mapIdx.mp h
    exact PlaceRec.set_ok _ _ _
  · exact hv p ((mem_records v p).mpr (.inr (.inr (.inl h))))
  · exact hv p ((mem_records v p).mpr (.inr (.inr (.inr h))))

/-- The inventory's part of the reset's update (R15, R113). -/
def State.resetInventory (s : State) (x : Option Loc) (v : Inventory) : Inventory :=
  let w := s.deriveBayPlaces v
  let u := match x with
    | some (.bay _) => w
    | some l => w.put l .unknown none
    | none => w
  u.gripperSensed s.pins.gripper

theorem State.resetUpdate_eq (s : State) (x : Option Loc) :
    s.resetUpdate x = s.deriveBays.inventoryUpdate (s.resetInventory x) := rfl

theorem resetInventory_keepsRecords (s : State) (x : Option Loc) : KeepsRecords (s.resetInventory x) := by
  intro v hv
  have h1 := deriveBayPlaces_keepsRecords s v hv
  unfold State.resetInventory
  refine gripperSensed_keepsRecords _ _ ?_
  split
  · exact h1
  · exact put_keepsRecords _ .unknown (fun _ => none) _ h1
  · exact h1

theorem resetInventory_bays (s : State) (x : Option Loc) (v : Inventory) :
    (s.resetInventory x v).bays = v.bays.mapIdx fun n p => p.set (s.derivedBay n).occ (s.resetLabel n) := by
  unfold State.resetInventory
  rw [gripperSensed_bays]
  split
  · rfl
  · rename_i l hl
    rw [put_keepsBayOccs (Loc.not_isBay fun n hn => hl n hn)]
    rfl
  · rfl

theorem State.resetUpdate_calm (s : State) (x : Option Loc) : Calm A s (s.resetUpdate x) := by
  rw [State.resetUpdate_eq]
  have hn := fun h => State.inventoryUpdate_noticesOk (s := s.deriveBays) h (s.resetInventory x)
  obtain ⟨k, w, h⟩ := s.deriveBays.inventoryUpdate_frame (s.resetInventory x)
  rw [h] at hn ⊢
  refine { Calm.refl (A := A) s with notices := fun k => hn (k.congr rfl), labels := ?labels, bays := ?bays }
  case labels =>
    exact fun hl => labelsOk_reflag rfl (resetInventory_keepsRecords s x _ (LabelsOk.records hl))
  case bays =>
    intro hbs
    rw [baysOk_iff, reflag_bayOccs, resetInventory_bays, BaysAgree, List.forall₂_map_right_iff]
    refine forall₂_mapIdx (fun n b p _ => ?_) hbs
    obtain ⟨h1, h2⟩ : s.derivedBay n ≠ .loading ∧ s.derivedBay n ≠ .ejecting := derivedState_settled _
    exact ⟨by simp [BayOk, h1, h2], rfl⟩

end Sys2Proof.Machine

namespace Sys2Proof.Machine

variable {A : Prop} {q : Byte}

theorem Still.congr {s t : State} (h : Still s) (hs : t.seq = s.seq) (hm : t.mech = s.mech) : Still t := by
  unfold Still
  rw [hs, hm]
  exact h

theorem State.haltJob_still (s : State) : Still s.haltJob := ⟨rfl, rfl, rfl, rfl⟩

theorem State.softReset_calm (s : State) (h : s.awaitsReload = false) : Calm A s s.softReset := by
  have h1 := ((s.haltJob_calm (A := A)).trans (State.discardEntries_calm _)).trans (State.emptyNotices_calm _)
  have h2 := h1.trans (State.resetUpdate_calm _ s.stageLocation)
  refine h2.trans (State.restart_calm _ _ (fun _ => ?_) (h2.free_of fun _ => h))
  rw [State.resetUpdate_eq]
  obtain ⟨n, w, heq⟩ := State.inventoryUpdate_frame _ _
  rw [heq]
  exact s.haltJob_still.congr rfl rfl

/-- With nothing waiting, no commit need be in flight. -/
theorem storeOk_idle {s : State} (hc : CommitOk s.store) (hw : s.store.wait = none)
    (hp : s.link.replyPending = false) : StoreOk s :=
  ⟨hc, by simp [hw, hp], fun _ => hp, by simp [hw]⟩

theorem State.fullReset_served (s : State) : Served A q s (s.fullReset q) := by
  have h1 := (s.reply_served (A := A) (q := q) 0x1A#8 .ok [] true).calm (State.haltJob_calm _)
  refine ⟨⟨h1.port, h1.bays, h1.labels, h1.notices, h1.queue, fun _ _ => ?_⟩, fun h => ?_⟩
  · exact mechanismOk_of_still (timerOk_clear _) ⟨rfl, rfl, rfl, rfl⟩ fun _ => rfl
  · exact storeOk_idle h.commits h.wait rfl

/-! ### The requests with deferred replies -/

/-- A request whose reply waits on the commit its change asks for: `y` is the state in which the commit is asked for. -/
theorem served_deferred {s y : State} (k : Byte) (h : Kept A s y) (hl : y.link.lastSeq = s.link.lastSeq)
    (hp : y.link.replyPending = s.link.replyPending) (hr : y.link.resetWait = s.link.resetWait)
    (hst : y.store = { s.store with wait := some ⟨q, k, s.store.commit.isSome⟩ }) : Served A q s y.askCommit := by
  have hc := y.askCommit_calm (A := A)
  refine ⟨h.trans hc.toKept, fun ha => ?_⟩
  refine ⟨hc.commits (by rw [hst]; exact ha.commits), ?_, ?_, ?_⟩
  · rw [hc.replyPending, hp, ha.replyPending, hc.wait, hst]
    simp
  · rw [hc.resetWait, hr, ha.resetWait]
    exact fun hn => absurd rfl hn
  · intro w hw
    rw [hc.wait, hst] at hw
    obtain rfl := Option.some.inj hw
    refine ⟨by rw [hc.lastSeq, hl, ha.lastSeq], ?_⟩
    have hcom : y.store.commit = s.store.commit := by rw [hst]
    unfold State.askCommit
    rw [hcom]
    cases hs : s.store.commit with
    | none => exact ⟨y.startCommit_store.2.2, by simp⟩
    | some c => exact ⟨by simp [hcom, hs], fun _ => rfl⟩

/-- A retirement asks for its commit last, and until then touches neither the store nor the exchange. -/
theorem State.retire_asks (s : State) (p : Nat) (c : RetireCause) (t : Option Tag) :
    ∃ y, s.retire p c t = y.askCommit ∧ Calm A s y ∧ y.store = s.store := by
  have h := Calm.of_map (A := A) s (s.map.retire s.nPhys p) s.params
  have store : ∀ (u : State) (a : Attention), (u.askAttention a).store = u.store := fun u a => by
    obtain ⟨n, f, heq⟩ := u.askAttention_frame a
    rw [heq]
  unfold State.retire
  dsimp only
  split
  · exact ⟨_, rfl, (h.trans (State.askAttention_calm _ _)).trans (State.askAttention_calm _ _),
      (store _ _).trans (store _ _)⟩
  · exact ⟨_, rfl, h.trans (State.askAttention_calm _ _), store _ _⟩

theorem Kept.of_wait (s : State) (w : Option ReplyWait) : Kept A s { s with store := { s.store with wait := w } } :=
  { Kept.refl (A := A) s with }

theorem State.retireDeferred_served (s : State) (k : Byte) (p : Nat) (c : RetireCause) (t : Option Tag) :
    Served A q s ((s.deferReply q k).retire p c t) := by
  obtain ⟨y, hy, hc, hst⟩ := (s.deferReply q k).retire_asks (A := A) p c t
  rw [hy]
  exact served_deferred k ((Kept.of_wait s _).trans hc.toKept) hc.lastSeq hc.replyPending hc.resetWait hst

/-- A change that is calm and leaves the store, then the deferred reply and its commit. -/
theorem Calm.deferred {s y : State} (h : Calm A s y) (hst : y.store = s.store) (k : Byte) :
    Served A q s ((y.deferReply q k).askCommit) :=
  served_deferred k (h.toKept.trans (Kept.of_wait y _)) h.lastSeq h.replyPending h.resetWait
    (by unfold State.deferReply; rw [hst])

theorem State.mapChanged_store (s : State) : s.mapChanged.store = s.store := by
  obtain ⟨n, f, h⟩ := State.askAttention_frame s _
  unfold State.mapChanged
  rw [h]

/-! ### The end of a bank write -/

/-- The reply that waits and the exchange with the host agree, whatever becomes of the commit in flight. -/
structure WaitOk (s : State) : Prop where
  pending : s.link.replyPending = true ↔ s.store.wait.isSome = true
  reset : s.link.resetWait ≠ none → s.link.replyPending = false
  wait : ∀ w, s.store.wait = some w →
    s.link.lastSeq = some w.seq ∧ (w.onPending = true → s.store.commitPending = true)

theorem StoreOk.waitOk {s : State} (h : StoreOk s) : WaitOk s :=
  ⟨h.2.1, h.2.2.1, fun w hw => ⟨(h.2.2.2 w hw).1, (h.2.2.2 w hw).2.2⟩⟩

/-- A commit that starts carries the reply that waits on it. -/
theorem State.startCommit_storeOk {s : State} (h : WaitOk s)
    (hw : ∀ w, s.store.wait = some w → w.onPending = false) : StoreOk s.startCommit := by
  obtain ⟨hp, hr, hl⟩ := h
  have hc := s.startCommit_calm (A := True)
  refine ⟨s.startCommit_ok, by rw [hc.replyPending, hc.wait]; exact hp, by rw [hc.resetWait, hc.replyPending]; exact hr, ?_⟩
  intro w h
  rw [hc.wait] at h
  exact ⟨hc.lastSeq.trans (hl w h).1, s.startCommit_store.2.2, by simp [hw w h]⟩

/-- Changes of the store are no concern of the other invariants. -/
theorem Kept.of_store (s : State) (st : Store) : Kept A s { s with store := st } := { Kept.refl (A := A) s with }

theorem State.answerDeferred_kept (s : State) (st : Status) : Kept A s (s.answerDeferred st) := by
  unfold State.answerDeferred
  split
  · exact Kept.refl s
  · split
    · exact Kept.of_store s _
    · exact (Kept.of_store s _).trans (Kept.of_link _ rfl)

theorem State.finishCommit_kept (s : State) (st : Status) : Kept A s (s.finishCommit st) := by
  have h := (Kept.of_store (A := A) s { s.store with commit := none }).trans (State.answerDeferred_kept _ st)
  unfold State.finishCommit
  dsimp only
  split
  · exact h.trans ((Kept.of_store _ _).trans (State.startCommit_calm _).toKept)
  · exact h

/-- Once the commit in flight has ended, its reply is sent, or the reply waits on the commit about to start. -/
theorem State.answerDeferred_waitOk {s : State} (h : WaitOk s) (hc : s.store.commit = none) (st : Status) :
    let u := s.answerDeferred st
    u.store.commit = none ∧ WaitOk { u with store := { u.store with commitPending := false } }
      ∧ (∀ w, u.store.wait = some w → w.onPending = false)
      ∧ (u.store.wait ≠ none → (u.store.commitPending && !u.awaitsReload) = true) := by
  obtain ⟨hp, hr, hw⟩ := h
  unfold State.answerDeferred
  cases hwait : s.store.wait with
  | none =>
    exact ⟨hc, ⟨hp, hr, fun w h => by simp [hwait] at h⟩, fun w h => by simp [hwait] at h, fun h => absurd hwait h⟩
  | some w =>
    obtain ⟨hl, hon⟩ := hw w hwait
    dsimp only
    split
    · rename_i hw'
      have hpt : s.link.replyPending = true := hp.mpr (by simp [hwait])
      have hrw : s.link.resetWait = none := by
        by_contra hn
        simp [hr hn] at hpt
      refine ⟨hc, ⟨by simp [hpt], hr, ?_⟩, ?_, fun _ => by simp [hon hw', State.awaitsReload, hrw]⟩
      · rintro x ⟨⟩
        exact ⟨hl, by simp⟩
      · rintro x ⟨⟩
        rfl
    · exact ⟨hc, ⟨by simp [State.reply], fun _ => rfl, by simp⟩, by simp, by simp⟩

theorem State.finishCommit_storeOk {s : State} (h : WaitOk s) (st : Status) : StoreOk (s.finishCommit st) := by
  obtain ⟨hc, hu, hon, hw⟩ := State.answerDeferred_waitOk (s := { s with store := { s.store with commit := none } })
    ⟨h.pending, h.reset, h.wait⟩ rfl st
  unfold State.finishCommit
  dsimp only
  split
  · exact State.startCommit_storeOk hu hon
  · rename_i hno
    have hnone : (State.answerDeferred { s with store := { s.store with commit := none } } st).store.wait = none :=
      by_contra fun hn => hno (hw hn)
    refine storeOk_idle (fun c h => by simp [hc] at h) hnone ?_
    have := hu.pending
    dsimp only at this
    rw [hnone] at this
    simpa using this

theorem State.writeTaken_good (s : State) (ok : Bool) : Good A s (s.writeTaken ok) := by
  unfold State.writeTaken
  split
  · exact Good.refl s
  · rename_i c hc
    split
    · obtain ⟨-, -, h3, h4⟩ := s.store.setBank_newest c.target ⟨c.image, true⟩
      refine ⟨(Kept.of_store s _).trans (State.finishCommit_kept _ _), fun h => State.finishCommit_storeOk ?_ _⟩
      have hw := h.waitOk
      exact ⟨by dsimp only; rw [h3]; exact hw.pending, hw.reset, by dsimp only; rw [h3, h4]; exact hw.wait⟩
    · split
      · have ha := State.askAttention_calm (A := A) { s with store := { s.store with unsaved := true } }
          (.storeFault c.target c.image.generation)
        refine ⟨((Kept.of_store s _).trans ha.toKept).trans (State.finishCommit_kept _ _), fun h => ?_⟩
        exact State.finishCommit_storeOk (ha.store ⟨h.1, h.2.1, h.2.2.1, h.2.2.2⟩).waitOk _
      · refine ⟨Kept.of_store s _, fun h => ⟨?_, h.2.1, h.2.2.1, fun w hw => ?_⟩⟩
        · rintro x ⟨⟩
          exact h.1 c hc
        · obtain ⟨h1, -, h3⟩ := h.2.2.2 w hw
          exact ⟨h1, Option.some_ne_none _, h3⟩

/-! ### Power -/

/-- Every block has its power-on values, whatever map the store has loaded, and no commit is in flight. -/
structure FreshBlocks (s : State) : Prop where
  queue : s.queue = Queue.atPower
  inv : s.inv = s.invAtPower
  seq : s.seq = Sequencer.atPower
  mech : s.mech = Mech.atPower
  bays : s.bays = (List.range s.nBays).map s.bayAtPower
  port : s.port = Port.atPower s.pins.doorOpen
  notices : s.notices = Notices.atPower
  commit : s.store.commit = none
  wait : s.store.wait = none
  reload : s.awaitsReload = false

theorem holds_noLabel {p : PlaceRec} (h : p.label = none) : p.holds = none := by
  unfold PlaceRec.holds
  split
  · exact h
  · rfl

theorem PlaceRec.labelOk_of_none {v : Inventory} {p : PlaceRec} (h : p.label = none) (hd : p.dup = false) :
    (p.label.isSome = true → p.occ = .occupied) ∧ p.dup = v.duplicated p := by
  refine ⟨by simp [h], ?_⟩
  unfold Inventory.duplicated
  rw [holds_noLabel h, hd]

/-- Fresh blocks have every invariant, whatever came before; the store's where no reply is pending. -/
theorem FreshBlocks.good {r s : State} (h : FreshBlocks s) (hp : StoreOk r → s.link.replyPending = false) :
    Good A r s := by
  refine ⟨⟨fun _ => ?port, fun _ => ?bays, fun _ => ?labels, fun _ => noticesOk_empty _ h.notices, fun _ => ?queue,
    fun _ _ => ?mech⟩, fun hr => ?store⟩
  case port =>
    unfold PortOk
    rw [h.port]
    unfold Port.atPower
    split <;> simp
  case bays =>
    rw [baysOk_iff, h.bays, h.inv, BaysAgree]
    simp only [State.invAtPower, List.map_map, List.forall₂_map_left_iff, List.forall₂_map_right_iff]
    refine List.forall₂_same.mpr fun n _ => ⟨?_, rfl⟩
    obtain ⟨h1, h2⟩ : s.derivedBay n ≠ .loading ∧ s.derivedBay n ≠ .ejecting := derivedState_settled _
    simp [BayOk, State.bayAtPower, Bay.noDrive, h1, h2]
  case labels =>
    intro p hp
    rw [h.inv, mem_records] at hp
    rcases hp with h | h | h | h
    · obtain rfl := List.eq_of_mem_replicate h
      exact PlaceRec.labelOk_of_none rfl rfl
    · obtain ⟨n, -, rfl⟩ := List.mem_map.mp h
      exact PlaceRec.labelOk_of_none rfl rfl
    · obtain rfl := List.eq_of_mem_replicate h
      exact PlaceRec.labelOk_of_none rfl rfl
    · subst h
      exact PlaceRec.labelOk_of_none rfl rfl
  case queue =>
    unfold QueueOk TagsApart
    rw [h.queue]
    exact ⟨Nat.zero_le _, List.nodup_nil⟩
  case store => exact storeOk_idle (fun c hc => by simp [h.commit] at hc) h.wait (hp hr)
  case mech =>
    refine mechanismOk_of_still (by rw [h.mech]; simp [TimerOk, Mech.atPower]) ?_ (by simp [h.reload])
    unfold Still
    rw [h.seq, h.mech]
    exact ⟨rfl, rfl, rfl, rfl⟩

/-- The load of the map store changes the map, the parameters, the store and the notices. -/
theorem State.load_frame (s : State) : ∃ m p st n f, s.load =
    { s with map := m, params := p, store := st, notices := n, link := { s.link with noticeFrames := f } } := by
  unfold State.load
  dsimp only
  split
  · unfold State.loadFrom
    dsimp only
    split
    · exact ⟨_, _, _, _, _, rfl⟩
    · obtain ⟨n, f, h⟩ := State.askAttention_frame _ _
      rw [h]
      obtain ⟨st, h'⟩ := State.askCommit_frame _
      rw [h']
      exact ⟨_, _, _, _, _, rfl⟩
  · unfold State.loadDefault
    obtain ⟨n, f, h⟩ := State.askAttention_frame _ _
    rw [h]
    obtain ⟨st, h'⟩ := State.askCommit_frame _
    rw [h']
    exact ⟨_, _, _, _, _, rfl⟩

theorem State.powerUp_good {r : State} (s : State) (hp : StoreOk r → s.link.replyPending = false)
    (hw : s.awaitsReload = false) : Good A r s.powerUp := by
  have fresh : ∀ (m : SlotMap) (p : Params) (b : Option BankId) (g : Word32), Good A r
      { s with
        queue := Queue.atPower, inv := s.invAtPower, seq := Sequencer.atPower, mech := Mech.atPower,
        bays := (List.range s.nBays).map s.bayAtPower, port := Port.atPower s.pins.doorOpen,
        notices := Notices.atPower, ctl := { s.ctl with ret := .ready }, map := m, params := p,
        store := { s.store with
          commit := none, commitPending := false, unsaved := false, wait := none, newest := b, newestGen := g } } :=
    fun m p b g => FreshBlocks.good ⟨rfl, rfl, rfl, rfl, rfl, rfl, rfl, rfl, rfl, hw⟩ hp
  unfold State.powerUp State.load
  dsimp only
  split
  · unfold State.loadFrom
    dsimp only
    split
    · exact fresh _ _ _ _
    · exact (fresh _ _ _ _).trans ((State.askAttention_calm _ _).trans (State.askCommit_calm _)).good
  · exact (fresh _ _ _ _).trans ((State.askAttention_calm _ _).trans (State.askCommit_calm _)).good

theorem State.powerUp_still (s : State) : Still s.powerUp := by
  unfold State.powerUp
  obtain ⟨m, p, st, n, f, h⟩ := State.load_frame _
  rw [h]
  exact ⟨rfl, rfl, rfl, rfl⟩

theorem State.powerUp_awaitsReload (s : State) : s.powerUp.awaitsReload = s.awaitsReload := by
  unfold State.powerUp
  obtain ⟨m, p, st, n, f, h⟩ := State.load_frame _
  rw [h]
  rfl

theorem State.start_calm (s : State) (hs : Still s) (hw : s.awaitsReload = false) : Calm A s s.start := by
  have h1 : Calm A s { s with ctl := { s.ctl with mode := s.startMode } } :=
    { Calm.refl (A := A) s with
      mech := fun _ k => mechanismOk_of_still k.1 hs (by
        intro h
        exact absurd hw (by rw [show s.awaitsReload = true from h]; decide)) }
  have h2 := h1.trans (State.askAttention_calm _ (.modeChanged none s.startMode none .start none))
  unfold State.start State.homeIfReleased
  split
  · exact h2
  · rename_i hl
    obtain ⟨n, f, heq⟩ := State.askAttention_frame
      { s with ctl := { s.ctl with mode := s.startMode } } (.modeChanged none s.startMode none .start none)
    refine h2.trans (State.beginHoming_calm _ fun _ => ?_)
    rw [heq] at hl ⊢
    have hm : s.startMode = .initializing := by
      unfold State.startMode
      rw [if_neg hl]
    refine ⟨?_, ?_, hw⟩
    · change s.startMode ≠ _
      rw [hm]
      decide
    · change s.startMode ≠ _
      rw [hm]
      decide

theorem State.powerOn_good (r s : State) (straps : Straps) (pins : Pins) (stop : Bool) :
    Good A r (s.powerOn straps pins stop) := by
  unfold State.powerOn
  refine (State.powerUp_good _ (fun _ => rfl) rfl).trans (State.start_calm _ (State.powerUp_still _) ?_).good
  rw [State.powerUp_awaitsReload]
  rfl

/-- A state with every invariant. -/
def AllOk (s : State) : Prop :=
  PortOk s ∧ BaysOk s ∧ LabelsOk s ∧ NoticesOk s ∧ QueueOk s ∧ StoreOk s ∧ MechanismOk s

theorem AllOk.good {r s : State} (h : AllOk s) : Good A r s := by
  obtain ⟨h1, h2, h3, h4, h5, h6, h7⟩ := h
  exact ⟨⟨fun _ => h1, fun _ => h2, fun _ => h3, fun _ => h4, fun _ => h5, fun _ _ => h7⟩, fun _ => h6⟩

theorem Good.allOk {s t : State} (h : Good True s t) (k : AllOk s) : AllOk t := by
  obtain ⟨h1, h2, h3, h4, h5, h6, h7⟩ := k
  exact ⟨h.port h1, h.bays h2, h.labels h3, h.notices h4, h.queue h5, h.store h6, h.mech trivial h7⟩

theorem State.dark_allOk (s : State) : AllOk s.dark := by
  refine ⟨by simp [PortOk, State.dark], .nil, ?labels, noticesOk_empty _ rfl, ⟨Nat.zero_le _, List.nodup_nil⟩,
    storeOk_idle (fun c hc => by simp [State.dark] at hc) rfl rfl, ?mech⟩
  case labels =>
    intro p hp
    rcases (mem_records _ p).mp hp with h | h | h | h
    · simp [State.dark] at h
    · simp [State.dark] at h
    · simp [State.dark] at h
    · subst h
      exact PlaceRec.labelOk_of_none rfl rfl
  case mech =>
    exact mechanismOk_of_still (by simp [TimerOk, State.dark, Mech.atPower]) ⟨rfl, rfl, rfl, rfl⟩ fun _ => rfl

theorem awaitsReload_eq_false {s : State} :
    s.awaitsReload = false ↔ ∀ w, s.link.resetWait = some w → w.reloaded = true := by
  unfold State.awaitsReload
  cases s.link.resetWait <;> simp

/-- The reload is taken once. -/
theorem Link.reloaded_reloaded (l : Link) : ∀ w, l.reloaded.resetWait = some w → w.reloaded = true := by
  intro w hw
  unfold Link.reloaded at hw
  cases hl : l.resetWait with
  | none => simp [hl] at hw
  | some x =>
    rw [hl] at hw
    dsimp only at hw
    split at hw
    · simp [Link.reopen] at hw
    · obtain rfl := Option.some.inj hw
      rfl

theorem Link.reloaded_replyPending {l : Link} (h : l.replyPending = false) : l.reloaded.replyPending = false := by
  unfold Link.reloaded
  split
  · split
    · rfl
    · exact h
  · exact h

theorem State.reload_good (r s : State) (hl : StoreOk r → s.link.replyPending = false) : Good A r s.reload := by
  have hw : State.awaitsReload { s with link := { s.link.reloaded with noticeFrames := [] } } = false :=
    awaitsReload_eq_false.mpr s.link.reloaded_reloaded
  unfold State.reload
  refine (State.powerUp_good _ (fun h => Link.reloaded_replyPending (hl h)) hw).trans
    (State.start_calm _ (State.powerUp_still _) ?_).good
  rw [State.powerUp_awaitsReload]
  exact hw

theorem State.resetWait_of_reloadReady {s : State} (h : s.reloadReady = true) : s.link.resetWait ≠ none := by
  intro hn
  simp [State.reloadReady, hn] at h

/-! ### The link's own events -/

theorem State.receive_calm (s : State) (r : Receiver) : Calm A s (s.receive r) := Calm.of_frames s ⟨rfl, rfl, rfl⟩

theorem State.receiveAll_calm (s : State) (r : Receiver) (bs : List Byte) : Calm A s (s.receiveAll r bs) := by
  unfold State.receiveAll
  split
  · exact s.receive_calm _
  · exact Calm.refl s

/-- The end of RESET FULL's interval, or a part of it: what is kept. -/
theorem Link.sent_cases (l : Link) :
    (l.sent.lastSeq = l.lastSeq ∧ l.sent.replyPending = l.replyPending ∧ l.sent.resetWait = l.resetWait)
      ∨ ∃ w, l.resetWait = some w ∧
          ((w.reloaded = true ∧ l.sent.resetWait = none ∧ l.sent.replyPending = false)
            ∨ (w.reloaded = false ∧ l.sent.resetWait = some { w with replySent := true }
              ∧ l.sent.replyPending = l.replyPending)) := by
  unfold Link.sent
  split
  · exact .inl ⟨rfl, rfl, rfl⟩
  · split
    · unfold Link.resetReplySent
      dsimp only
      split
      · rename_i w hw
        refine .inr ⟨w, hw, ?_⟩
        split
        · exact .inl ⟨‹_›, rfl, rfl⟩
        · exact .inr ⟨by simpa using ‹¬ w.reloaded = true›, rfl, rfl⟩
      · exact .inl ⟨rfl, rfl, rfl⟩
    · exact .inl ⟨rfl, rfl, rfl⟩
  · exact .inl ⟨rfl, rfl, rfl⟩

/-- With the interval of RESET FULL going on or ended, no reply is pending. -/
theorem StoreOk.of_reset {s : State} (h : StoreOk s) (hr : s.link.resetWait ≠ none) {l : Link}
    (hl : l.replyPending = false) : StoreOk { s with link := l } := by
  have hp := h.2.2.1 hr
  have hw : s.store.wait = none := by simpa [hp] using h.2.1
  exact storeOk_idle h.1 hw hl

theorem State.sent_good (s : State) : Good A s { s with link := s.link.sent } := by
  rcases s.link.sent_cases with h | ⟨w, hw, ⟨hr, h1, h2⟩ | ⟨hr, h1, h2⟩⟩
  · exact (Calm.of_frames s h).good
  · refine ⟨{ Kept.refl (A := A) s with mech := fun _ k => ?_ }, fun h => h.of_reset (by simp [hw]) h2⟩
    have ha : s.awaitsReload = false := awaitsReload_eq_false.mpr fun x hx => by
      rw [hw] at hx
      exact Option.some.inj hx ▸ hr
    have hb : State.awaitsReload { s with link := s.link.sent } = s.awaitsReload := by
      rw [ha, awaitsReload_eq_false]
      intro x hx
      rw [h1] at hx
      simp at hx
    unfold MechanismOk at k ⊢
    rw [hb]
    exact k
  · refine ⟨{ Kept.refl (A := A) s with mech := fun _ k => ?_ },
      fun h => h.of_reset (by simp [hw]) (by rw [h2]; exact h.2.2.1 (by simp [hw]))⟩
    have hb : State.awaitsReload { s with link := s.link.sent } = s.awaitsReload := by
      simp [State.awaitsReload, h1, hw]
    unfold MechanismOk at k ⊢
    rw [hb]
    exact k

end Sys2Proof.Machine

namespace Sys2Proof.Machine

variable {A : Prop}

/-! ### Drives, door and stop -/

theorem State.bayKeeps_calm (s : State) (n : Nat) {st : BayState} (h1 : st ≠ .loading) (h2 : st ≠ .ejecting) :
    Calm A s (s.bayKeeps n st) := s.bayUpdate_calm n h1 h2 _ keepsRecords_id

theorem State.askEjected_calm (s : State) (n : Nat) (b : Bool) : Calm A s (s.askEjected n b) := s.askAttention_calm _

theorem State.recordLoad_calm (s : State) (n : Nat) (r : Option Result → Option Result) :
    Calm A s (s.modBay n fun b => { b with loadResult := r b.loadResult }) :=
  s.modBay_calm n fun _ _ h => ⟨h, rfl⟩

theorem State.settleLoad_calm (s : State) (n : Nat) (t : Tag) (r : Result) : Calm A s (s.settleLoad n t r) := by
  unfold State.settleLoad
  split
  · split
    · exact s.entryDone_calm _ _ _
    · exact s.recordLoad_calm n (·.or (some r))
  · exact Calm.refl s

theorem State.leaveLoading_calm (s : State) (n : Nat) {st : BayState} (h1 : st ≠ .loading) (h2 : st ≠ .ejecting)
    (r : Result) : Calm A s (s.leaveLoading n st r) := by
  have h := s.bayKeeps_calm (A := A) n h1 h2
  unfold State.leaveLoading
  dsimp only
  split
  · exact h.trans (State.settleLoad_calm _ _ _ _)
  · split
    · exact h.trans (State.askEjected_calm _ _ _)
    · exact h

theorem State.ejectFails_calm (s : State) (n : Nat) : Calm A s (s.ejectFails n) := by
  have h := s.bayKeeps_calm (A := A) n (st := .loaded) (by decide) (by decide)
  unfold State.ejectFails
  dsimp only
  split
  · exact h.trans (State.entryDone_calm _ _ _ _)
  · exact h

theorem State.insertDrive_calm (s : State) (n : Nat) : Calm A s (s.insertDrive n) := by
  have h := s.bayUpdate_calm (A := A) n (derivedState_settled (driveAt s.pins.drives n)).1
    (derivedState_settled (driveAt s.pins.drives n)).2 none keepsRecords_id
  refine (h.trans (State.modBay_calm _ n fun b _ hb => ?_)).trans (State.askAttention_calm _ _)
  unfold Bay.inserted
  split <;> exact ⟨hb, rfl⟩

theorem State.disturb_calm (s : State) (p : Loc → Bool) (i : Interruption) (h : A → MechanismOk s) :
    Calm A s (s.disturb p i) := by
  unfold State.disturb
  split
  · rename_i e he
    obtain ⟨j, hj⟩ := State.job_of_running he
    split
    · exact s.interrupt_calm e i (MechanismOk.free_of_job h hj)
    · exact Calm.refl s
  · exact Calm.refl s

theorem State.settleRemoved_calm (s : State) (n : Nat) (t : Tag) : Calm A s (s.settleRemoved n t) := by
  unfold State.settleRemoved
  split
  · split
    · exact s.entryDone_calm _ _ _
    · exact s.recordLoad_calm n (·.or (some .driveRemoved))
  · exact Calm.refl s

theorem State.settleRemoval_calm (s : State) (n : Nat) (h : A → MechanismOk s) : Calm A s (s.settleRemoval n) := by
  unfold State.settleRemoval
  split
  · exact s.settleRemoved_calm _ _
  · exact s.disturb_calm _ _ h

theorem State.removeDrive_calm (s : State) (n : Nat) (h : A → MechanismOk s) : Calm A s (s.removeDrive n) := by
  have h1 := (s.bayUpdate_calm (A := A) n (st := .absent) (by decide) (by decide) none keepsRecords_id).trans
    (State.askAttention_calm _ (.driveRemoved n (s.bay n).state ((s.inv.place (.bay n)).holds)
      ((s.bay n).waiting.map (·.1))))
  exact h1.trans (State.settleRemoval_calm _ _ (h1.mech_of h))

theorem State.driveAccepts_calm (s : State) (n : Nat) : Calm A s (s.driveAccepts n) := by
  unfold State.driveAccepts
  split
  · exact s.bayUpdate_calm _ (by decide) (by decide) _ keepsRecords_id
  · exact s.leaveLoading_calm _ (by decide) (by decide) _
  · exact s.bayKeeps_calm _ (by decide) (by decide)
  · exact Calm.refl s

theorem State.ejectDone_calm (s : State) (n : Nat) : Calm A s (s.ejectDone n) := by
  have h := s.bayKeeps_calm (A := A) n (st := .ejected) (by decide) (by decide)
  unfold State.ejectDone
  dsimp only
  split
  · refine (h.trans (State.modBay_calm _ n ?_)).trans (State.modEntry_calm _ _)
    exact fun b _ hb => ⟨hb, rfl⟩
  · exact h.trans (State.askEjected_calm _ _ _)

theorem State.driveEjects_calm (s : State) (n : Nat) : Calm A s (s.driveEjects n) := by
  unfold State.driveEjects
  split
  · exact (s.bayUpdate_calm _ (by decide) (by decide) _ keepsRecords_id).trans (State.askEjected_calm _ _ _)
  · exact s.leaveLoading_calm _ (by decide) (by decide) _
  · exact (s.bayKeeps_calm _ (by decide) (by decide)).trans (State.askEjected_calm _ _ _)
  · exact s.ejectDone_calm _
  · exact Calm.refl s

theorem unknowCells_keepsRecords :
    KeepsRecords fun v => { v with cells := v.cells.map fun p => p.set .unknown none } := by
  intro v hv p hp
  rcases (mem_records _ p).mp hp with h | h | h | h
  · exact hv p ((mem_records v p).mpr (.inl h))
  · exact hv p ((mem_records v p).mpr (.inr (.inl h)))
  · obtain ⟨o, -, rfl⟩ := List.mem_map.mp h
    exact o.set_ok _ _
  · exact hv p ((mem_records v p).mpr (.inr (.inr (.inr h))))

theorem State.unknowCells_calm (s : State) : Calm A s s.unknowCells := s.inventoryUpdate_calm unknowCells_keepsRecords

theorem State.forceDoor_calm (s : State) (h : A → MechanismOk s) : Calm A s s.forceDoor := by
  have h1 := (((s.setPort_calm (A := A) ⟨.opened, false, .noMark⟩ fun _ => by simp [PortOk]).trans
    (State.unknowCells_calm _)).trans (State.askAttention_calm _ (.doorForced s.port.state (s.port.mark == .running)
      s.portTags))).trans (State.modJob_calm _ fun j =>
        if j.kind = .portAudit then { j with interruption := j.interruption.or (some .portDisturbed) } else j)
  exact h1.trans (State.disturb_calm _ _ _ (h1.mech_of h))

theorem State.openDoor_calm (s : State) (h : A → MechanismOk s)
    (hp : s.port.state = .released ∨ s.port.state = .closed) : Calm A s s.openDoor := by
  have h1 := ((s.setPort_calm (A := A) { s.port with state := .opened } fun k => ?_).trans
    (State.unknowCells_calm _)).trans (State.askAttention_calm _ (.doorOpened s.port.state))
  · exact h1.trans (State.disturb_calm _ _ _ (h1.mech_of h))
  · obtain ⟨k1, k2⟩ := k
    refine ⟨k1.trans ?_, k2.trans ?_⟩ <;> rcases hp with hp | hp <;> simp [hp]

theorem State.doorOpens_calm (s : State) (h : A → MechanismOk s) : Calm A s s.doorOpens := by
  unfold State.doorOpens
  split
  · exact s.openDoor_calm h (.inl ‹_›)
  · exact s.openDoor_calm h (.inr ‹_›)
  · exact s.forceDoor_calm h
  · exact s.forceDoor_calm h
  · exact Calm.refl s

theorem State.doorCloses_calm (s : State) : Calm A s s.doorCloses := by
  unfold State.doorCloses
  split_ifs with h1 h2
  · exact Calm.refl s
  · exact s.setPort_calm _ fun _ => by simp [PortOk]
  · rw [not_not] at h1
    refine (s.setPort_calm _ fun k => ?_).trans (State.askAttention_calm _ _)
    obtain ⟨k1, k2⟩ := k
    exact ⟨k1.trans (by simp [h1]), k2.trans (by simp [h1])⟩

theorem State.stop_calm (s : State) (h : A → s.awaitsReload = false) : Calm A s s.stop := by
  have h1 := (s.haltMode_calm .stopped .stopLine none h).trans (State.unsettle_calm _ s.stageLocation)
  unfold State.stop
  dsimp only
  split
  · exact (h1.trans (State.endHandOff_calm _)).trans (State.entryDone_calm _ _ _ _)
  · exact h1

/-- Lines and the record of the stop line are no part of an invariant. -/
theorem Calm.of_lines (s : State) (p : Pins) (b : Bool) :
    Calm A s { s with pins := p, ctl := { s.ctl with stopLine := b } } := { Calm.refl (A := A) s with }

/-! ### Timers -/

theorem State.beginParking_calm (s : State) (h : A → Active s) : Calm A s s.beginParking :=
  (Calm.of_newJob s h _).trans (State.beginStage_calm _ _)

theorem hand_all_frame (ns : List Notice) : ∀ l : Link, ∃ f, ns.foldl Link.hand l = { l with noticeFrames := f } := by
  induction ns with
  | nil => exact fun l => ⟨_, rfl⟩
  | cons n ns ih =>
    intro l
    obtain ⟨f, hf⟩ := l.hand_frame n
    obtain ⟨g, hg⟩ := ih (l.hand n)
    exact ⟨g, by rw [List.foldl_cons, hg, hf]⟩

theorem State.repeatRound_calm (s : State) : Calm A s s.repeatRound := by
  obtain ⟨f, hf⟩ := hand_all_frame (s.notices.queue.map Notice.again) s.link
  unfold State.repeatRound
  dsimp only
  rw [hf]
  refine { Calm.refl (A := A) s with notices := fun h => ?_ }
  obtain ⟨⟨h1, h2, h3⟩, ⟨h4, h5⟩, -⟩ := (noticesOk_iff s).mp h
  refine (noticesOk_iff _).mpr ⟨⟨?_, h2.map fun _ => rfl, ?_⟩, ⟨?_, ?_⟩, ?_⟩
  · simpa using h1
  · intro m hm
    obtain ⟨n, hn, rfl⟩ := List.mem_map.mp hm
    obtain ⟨h6, -⟩ := h3 n hn
    change 1 ≤ min (n.count + 1) 255 ∧ min (n.count + 1) 255 ≤ 255
    omega
  · simpa using h4
  · simpa using h5
  · unfold RepeatOk
    dsimp only
    split <;> simp_all

/-! ### Every command -/

/-- A calm effect of an event. -/
theorem State.event_calm {s t : State} {f : State → State} (k : A → MechanismOk s) (h : Calm A s (f s))
    (ht : s.event f = .next t) : Good A s t := State.event_good k h.good ht

/-- An outcome's event, whose effect is calm wherever the mechanism is active. -/
theorem State.outcome_good {s t : State} {k : OrderKind} {n : Byte} {o : MechOutcome} {go : State → State}
    (hm : A → MechanismOk s) (hg : ∀ u : State, (A → MechanismOk u) → (A → Active u) → Calm A u (go u))
    (ht : (s.event fun s => s.takeOutcome k n o go) = .next t) : Good A s t :=
  State.event_calm hm (s.takeOutcome_calm k n o hm fun h => hg _ (fun a => (h a).1) fun a => (h a).2) ht

/-- A calm effect taken after the lines have been sampled. -/
theorem Calm.sampled {s : State} {x : Sense} {t : State} (h : Calm A (s.sample x) t) : Calm A s t :=
  (s.sample_calm x).trans h

section

variable {s t : State} (hm : A → MechanismOk s)
include hm

theorem execDescribe_good (seq : Byte) (body : List Byte) (h : execDescribe seq body s = .next t) : Good A s t :=
  State.request_good hm (fun a _ _ _ => a.reply_served _ _ _ _) h

theorem execQueryStatus_good (seq : Byte) (body : List Byte)
    (h : execQueryStatus seq body s = .next t) : Good A s t :=
  State.request_good hm (fun a _ _ _ => a.reply_served _ _ _ _) h

theorem execQueryLocations_good (seq : Byte) (body : List Byte)
    (h : execQueryLocations seq body s = .next t) : Good A s t := by
  refine State.request_good hm (fun a x _ _ => ?_) h
  split <;> exact a.reply_served _ _ _ _

theorem execQueryRequest_good (seq : Byte) (body : List Byte)
    (h : execQueryRequest seq body s = .next t) : Good A s t := by
  refine State.request_good hm (fun a x _ _ => ?_) h
  split <;> exact a.reply_served _ _ _ _

theorem execQueryMap_good (seq : Byte) (body : List Byte) (h : execQueryMap seq body s = .next t) : Good A s t :=
  State.request_good hm (fun a _ _ _ => a.reply_served _ _ _ _) h

theorem execMove_good (seq : Byte) (body : List Byte) (h : execMove seq body s = .next t) : Good A s t :=
  State.request_good hm (fun a _ _ _ => a.conclude_served _ (a.tryMove_admits _)) h

theorem execScan_good (seq : Byte) (body : List Byte) (h : execScan seq body s = .next t) : Good A s t :=
  State.request_good hm (fun a _ _ _ => a.conclude_served _ (a.tryScan_admits _)) h

theorem execStow_good (seq : Byte) (body : List Byte) (h : execStow seq body s = .next t) : Good A s t :=
  State.request_good hm (fun a _ _ _ => a.conclude_served _ (a.tryStow_admits _)) h

theorem execConfirm_good (seq : Byte) (body : List Byte) (h : execConfirm seq body s = .next t) : Good A s t := by
  refine State.request_good hm (fun a x _ _ => ?_) h
  split
  · exact a.reply_served _ _ _ _
  · exact (a.carryOn_calm _).served (State.reply_served _ _ _ _ _)

theorem execDivert_good (seq : Byte) (body : List Byte) (h : execDivert seq body s = .next t) : Good A s t := by
  refine State.request_good hm (fun a x _ _ => ?_) h
  split
  · exact a.reply_served _ _ _ _
  · exact ((a.divert_calm _ _).trans (State.carryOn_calm _ _)).served (State.reply_served _ _ _ _ _)

theorem execReturnHome_good (seq : Byte) (body : List Byte) (h : execReturnHome seq body s = .next t) : Good A s t := by
  refine State.request_good hm (fun a x _ hw => ?_) h
  split
  · exact a.reply_served _ _ _ _
  · exact (a.endHandOff_calm.trans (State.callReturn_calm _ _ _ fun _ => hw)).served (State.reply_served _ _ _ _ _)

theorem execCancel_good (seq : Byte) (body : List Byte) (h : execCancel seq body s = .next t) : Good A s t := by
  refine State.request_good hm (fun a x _ _ => ?_) h
  split
  · exact a.reply_served _ _ _ _
  · split
    · exact (a.entryDone_calm _ _ _).served (State.reply_served _ _ _ _ _)
    · exact a.reply_served _ _ _ _

theorem execAbortAll_good (seq : Byte) (body : List Byte) (h : execAbortAll seq body s = .next t) : Good A s t :=
  State.request_good hm (fun a x _ hw => a.abortAll_served x hw) h

theorem execPause_good (seq : Byte) (body : List Byte) (h : execPause seq body s = .next t) : Good A s t :=
  State.request_good hm (fun a _ _ _ => (Calm.of_hold a true).served (State.reply_served _ _ _ _ _)) h

theorem execResume_good (seq : Byte) (body : List Byte) (h : execResume seq body s = .next t) : Good A s t :=
  State.request_good hm (fun a _ _ _ => (Calm.of_hold a false).served (State.reply_served _ _ _ _ _)) h

theorem execPortUnlock_good (seq : Byte) (body : List Byte) (h : execPortUnlock seq body s = .next t) : Good A s t :=
  State.request_good hm (fun a _ _ _ => a.unlock_served) h

theorem execPortLock_good (seq : Byte) (body : List Byte) (h : execPortLock seq body s = .next t) : Good A s t :=
  State.request_good hm (fun a _ _ _ => a.lockPort_served) h

theorem execMaintenanceEnter_good (seq : Byte) (body : List Byte)
    (h : execMaintenanceEnter seq body s = .next t) : Good A s t :=
  State.request_good hm (fun a _ _ hw => a.changeMode_served _ _ (by decide) (by decide) hw) h

theorem execMaintenanceLeave_good (seq : Byte) (body : List Byte)
    (h : execMaintenanceLeave seq body s = .next t) : Good A s t :=
  State.request_good hm (fun a _ _ hw => a.changeMode_served _ _ (by decide) (by decide) hw) h

theorem execSetExposed_good (seq : Byte) (body : List Byte) (h : execSetExposed seq body s = .next t) : Good A s t := by
  refine State.request_good hm (fun a x _ _ => ?_) h
  split
  · exact a.reply_served _ _ _ _
  · have h1 := Calm.of_map (A := A) a { a.map with exposed := x.toNat } a.params
    dsimp only
    split
    · exact h1.deferred rfl _
    · exact (h1.trans (State.askAttention_calm _ _)).deferred (State.mapChanged_store _) _

theorem execRetireSlot_good (seq : Byte) (body : List Byte) (h : execRetireSlot seq body s = .next t) : Good A s t := by
  refine State.request_good hm (fun a x _ _ => ?_) h
  split
  · exact a.reply_served _ _ _ _
  · exact a.retireDeferred_served _ _ _ _

theorem execConsolidate_good (seq : Byte) (body : List Byte)
    (h : execConsolidate seq body s = .next t) : Good A s t := by
  refine State.request_good hm (fun a x _ _ => ?_) h
  split
  · exact a.reply_served _ _ _ _
  · exact ((Calm.of_map a (a.map.consolidate a.nPhys) a.params).trans (State.askAttention_calm _ _)).deferred
      (State.mapChanged_store _) _

theorem execSetParameters_good (seq : Byte) (body : List Byte)
    (h : execSetParameters seq body s = .next t) : Good A s t := by
  refine State.request_good hm (fun a x _ _ => ?_) h
  split
  · exact a.reply_served _ _ _ _
  · exact (Calm.of_map a (a.map.capFaults x.threshold) x.params).deferred rfl _

theorem execNoticeAck_good (seq : Byte) (body : List Byte) (h : execNoticeAck seq body s = .next t) : Good A s t :=
  State.request_good hm (fun a x _ _ => a.acknowledge_served x) h

theorem execRecover_good (seq : Byte) (body : List Byte) (h : execRecover seq body s = .next t) : Good A s t := by
  refine State.request_good hm (fun a x ha hw => ?_) h
  split_ifs with h1 h2
  · exact a.reply_served _ _ _ _
  · exact a.reply_served _ _ _ _
  · rw [not_not] at h1
    exact (a.reply_served _ _ _ _).calm
      (State.restart_calm _ _ (fun k => ((ha k).2.1 (.inl h1)).congr rfl rfl) fun _ => hw)

theorem execResetSoft_good (q : Byte) (b : List Byte) (x : Sense)
    (h : execResetSoft q b x s = .next t) : Good A s t := by
  unfold execResetSoft at h
  split at h
  · obtain rfl := Host.Outcome.next.inj h
    exact Good.refl s
  · exact State.request_good hm (fun a _ _ hw => ((a.reply_served _ _ _ _).calm (State.sample_calm _ x)).calm
      (State.softReset_calm _ hw)) h

theorem execResetFull_good (q : Byte) (b : List Byte) (h : execResetFull q b s = .next t) : Good A s t := by
  unfold execResetFull at h
  split at h
  · obtain rfl := Host.Outcome.next.inj h
    exact Good.refl s
  · exact State.request_good hm (fun a _ _ _ => a.fullReset_served) h

theorem execUnknownRequest_good (q : Byte) (k : Byte) (b : List Byte)
    (h : execUnknownRequest q k b s = .next t) : Good A s t := by
  refine State.event_good hm ?_ h
  split
  · exact Good.refl s
  · exact s.takeFrame_good _ _ _ hm fun a _ _ => a.reply_served _ _ _ _

theorem execPowerOn_good (straps : Straps) (pins : Pins) (stop : Bool)
    (h : execPowerOn straps pins stop s = .next t) : Good A s t := by
  obtain rfl := Host.Outcome.next.inj h
  exact (State.powerOn_good s _ straps pins stop).settle _ hm

omit hm in
theorem execPowerLoss_good (h : execPowerLoss s = .next t) : Good A s t := by
  unfold execPowerLoss at h
  split at h
  · obtain rfl := Host.Outcome.next.inj h
    exact (State.dark_allOk _).good
  · obtain rfl := Host.Outcome.next.inj h
    exact Good.refl s

theorem execResetFullReload_good (x : Sense) (h : execResetFullReload x s = .next t) : Good A s t := by
  refine State.event_good hm ?_ h
  split
  · rename_i hrr
    exact State.reload_good s _ fun hs => hs.2.2.1 (State.resetWait_of_reloadReady hrr)
  · exact Good.refl s

theorem execFrameBadCheck_good (bytes : List Byte) (h : execFrameBadCheck bytes s = .next t) : Good A s t := by
  refine State.event_calm hm ?_ h
  split
  · exact s.receive_calm _
  · exact Calm.refl s

theorem execFrameLengthExceeded_good (length : Word16) (following : List Byte)
    (h : execFrameLengthExceeded length s following = .next t) : Good A s t := by
  refine State.event_calm hm ?_ h
  split
  · exact s.receiveAll_calm _ _
  · exact Calm.refl s

theorem execInterByteGapTimeout_good (byte : Byte) (following : List Byte)
    (h : execInterByteGapTimeout byte s following = .next t) : Good A s t := by
  refine State.event_calm hm ?_ h
  split
  · exact Calm.refl s
  · exact s.receiveAll_calm _ _

theorem execByteWithoutStopBit_good (h : execByteWithoutStopBit s = .next t) : Good A s t :=
  State.event_calm hm (s.receive_calm _) h

theorem execSyncReceived_good (following : List Byte) (h : execSyncReceived s following = .next t) : Good A s t :=
  State.event_calm hm (s.receiveAll_calm _ _) h

theorem execFrameSent_good (h : execFrameSent s = .next t) : Good A s t :=
  State.event_good hm s.sent_good h

theorem execHomeOutcome_good (number : Byte) (outcome : MechOutcome) (sense : Sense)
    (h : execHomeOutcome number outcome sense s = .next t) : Good A s t := by
  refine State.outcome_good hm (fun u hu _ => ?_) h
  split
  · exact (State.homeReached_calm _ ((u.sample_calm _).mech_of hu)).sampled
  · exact (State.homeFailed_calm _ ((u.sample_calm _).mech_of hu)).sampled

theorem execTravelOutcome_good (number : Byte) (outcome : MechOutcome) (sense : Sense)
    (h : execTravelOutcome number outcome sense s = .next t) : Good A s t := by
  refine State.outcome_good hm (fun u hu _ => ?_) h
  split
  · exact (State.travelReached_calm _ ((u.sample_calm _).mech_of hu)).sampled
  · exact (State.travelFailed_calm _ ((u.sample_calm _).mech_of hu)).sampled

theorem execPickOutcome_good (number : Byte) (outcome : MechOutcome) (sense : Sense)
    (h : execPickOutcome number outcome sense s = .next t) : Good A s t := by
  refine State.outcome_good hm (fun u hu _ => ?_) h
  split
  · exact (State.pickHeld_calm _ ((u.sample_calm _).mech_of hu)).sampled
  · exact (State.pickNone_calm _).sampled
  · exact (State.pickFault_calm _).sampled

theorem execPlaceOutcome_good (number : Byte) (outcome : MechOutcome)
    (h : execPlaceOutcome number outcome s = .next t) : Good A s t := by
  refine State.outcome_good hm (fun u _ _ => ?_) h
  split
  · exact u.placePlaced_calm
  · exact u.placeFault_calm

theorem execRetractOutcome_good (number : Byte) (outcome : MechOutcome) (sense : Sense)
    (h : execRetractOutcome number outcome sense s = .next t) : Good A s t := by
  refine State.outcome_good hm (fun u hu ha => ?_) h
  split
  · exact (State.retractDone_calm _ ((u.sample_calm _).mech_of hu)).sampled
  · exact Calm.sampled (State.mechanismFault_calm (u.sample sense) fun a => (ha a).2.2)

theorem execProbeOutcome_good (number : Byte) (outcome : MechOutcome)
    (h : execProbeOutcome number outcome s = .next t) : Good A s t := by
  refine State.outcome_good hm (fun u hu _ => ?_) h
  split
  · exact u.probeEmpty_calm hu
  · exact u.probeOccupied_calm hu
  · exact u.probeFault_calm hu

theorem execReadOutcome_good (number : Byte) (outcome : MechOutcome)
    (h : execReadOutcome number outcome s = .next t) : Good A s t :=
  State.outcome_good hm (fun u hu _ => u.readTaken_calm _ hu) h

theorem execParkOutcome_good (number : Byte) (outcome : MechOutcome)
    (h : execParkOutcome number outcome s = .next t) : Good A s t :=
  State.outcome_good hm (fun u _ ha => u.parkEnds_calm _ ha) h

theorem execUnparkOutcome_good (number : Byte) (outcome : MechOutcome) (sense : Sense)
    (h : execUnparkOutcome number outcome sense s = .next t) : Good A s t := by
  refine State.outcome_good hm (fun u hu _ => ?_) h
  split
  · exact (State.atBoundary_calm _ (State.firstProper_calm _) ((u.sample_calm _).mech_of hu)).sampled
  · exact (State.travelFault_calm _ _ ((u.sample_calm _).mech_of hu)).sampled

theorem execStageTimerExpiry_good (x : Sense) (h : execStageTimerExpiry x s = .next t) : Good A s t := by
  refine State.event_calm hm ?_ h
  split
  · rename_i o ho
    have hact := fun a => (hm a).active_of_order ho
    have h1 := (s.clear_calm hact).trans (State.sample_calm _ x)
    exact h1.trans (State.expired_calm _ _ (h1.mech_of hm) hact)
  · exact Calm.refl s

theorem execParkTimerExpiry_good (h : execParkTimerExpiry s = .next t) : Good A s t := by
  refine State.event_calm hm ?_ h
  split
  · rename_i hc
    exact s.beginParking_calm fun a => (hm a).active fun hs => by simp [hs.2.2.2] at hc
  · exact Calm.refl s

theorem execConfirmTimerExpiry_good (h : execConfirmTimerExpiry s = .next t) : Good A s t := by
  refine State.event_calm hm ?_ h
  split
  · rename_i e _ he
    obtain ⟨j, hj⟩ := State.job_of_running he
    exact s.endHandOff_calm.trans (State.callReturn_calm _ _ _ (MechanismOk.free_of_job hm hj))
  · exact Calm.refl s

theorem execLoadTimerExpiry_good (bay : Fin 4) (h : execLoadTimerExpiry bay s = .next t) : Good A s t := by
  refine State.event_calm hm ?_ h
  split
  · exact s.leaveLoading_calm _ (by decide) (by decide) _
  · exact Calm.refl s

theorem execEjectTimerExpiry_good (bay : Fin 4) (h : execEjectTimerExpiry bay s = .next t) : Good A s t := by
  refine State.event_calm hm ?_ h
  split
  · exact s.ejectFails_calm _
  · exact Calm.refl s

theorem execRepeatTimerExpiry_good (h : execRepeatTimerExpiry s = .next t) : Good A s t := by
  refine State.event_calm hm ?_ h
  split
  · exact s.repeatRound_calm
  · exact Calm.refl s

theorem execPresentRising_good (bay : Fin 4) (lines : DriveLines)
    (h : execPresentRising bay lines s = .next t) : Good A s t := by
  refine State.event_calm hm ?_ h
  dsimp only
  split
  · split
    · exact (s.lines_calm _ _).trans (State.insertDrive_calm _ _)
    · exact s.lines_calm _ _
  · exact Calm.refl s

theorem execPresentFalling_good (bay : Fin 4) (h : execPresentFalling bay s = .next t) : Good A s t := by
  refine State.event_calm hm ?_ h
  dsimp only
  split
  · split
    · exact s.lines_calm _ _
    · exact (s.lines_calm _ _).trans (State.removeDrive_calm _ _ ((s.lines_calm _ _).mech_of hm))
  · exact Calm.refl s

theorem execAcceptedRising_good (bay : Fin 4) (h : execAcceptedRising bay s = .next t) : Good A s t := by
  refine State.event_calm hm ?_ h
  dsimp only
  split
  · exact (s.lines_calm _ _).trans (State.driveAccepts_calm _ _)
  · exact Calm.refl s

theorem execEjectReadyRising_good (bay : Fin 4) (h : execEjectReadyRising bay s = .next t) : Good A s t := by
  refine State.event_calm hm ?_ h
  dsimp only
  split
  · exact (s.lines_calm _ _).trans (State.driveEjects_calm _ _)
  · exact Calm.refl s

theorem execCartridgeFalling_good (bay : Fin 4) (accepted : Bool)
    (h : execCartridgeFalling bay accepted s = .next t) : Good A s t := by
  refine State.event_calm hm ?_ h
  dsimp only
  split
  · split
    · exact (s.lines_calm _ _).trans (State.bayUpdate_calm _ _ (by decide) (by decide) _ keepsRecords_id)
    · exact s.lines_calm _ _
  · exact Calm.refl s

theorem execDoorOpening_good (h : execDoorOpening s = .next t) : Good A s t := by
  have h1 := Calm.of_lines (A := A) s { s.pins with doorOpen := true } s.ctl.stopLine
  exact State.event_calm hm (h1.trans (State.doorOpens_calm _ (h1.mech_of hm))) h

theorem execDoorClosing_good (h : execDoorClosing s = .next t) : Good A s t := by
  have h1 := Calm.of_lines (A := A) s { s.pins with doorOpen := false } s.ctl.stopLine
  exact State.event_calm hm (h1.trans (State.doorCloses_calm _)) h

theorem execEmergencyStopAsserted_good (x : Sense) (h : execEmergencyStopAsserted x s = .next t) : Good A s t := by
  have h1 := Calm.of_lines (A := A) s (samplePins s.pins x) true
  refine State.event_calm hm ?_ h
  dsimp only
  split
  · exact h1
  · rename_i hc
    refine h1.trans (State.stop_calm _ fun _ => ?_)
    simp only [State.stopRecorded, Bool.or_eq_true, not_or, Bool.not_eq_true] at hc
    exact hc.2

theorem execEmergencyStopReleased_good (h : execEmergencyStopReleased s = .next t) : Good A s t :=
  State.event_calm hm (Calm.of_lines (A := A) s s.pins false) h

theorem execBankWriteComplete_good (ok : Bool) (h : execBankWriteComplete ok s = .next t) : Good A s t :=
  State.event_good hm (s.writeTaken_good ok) h

/-- Every command keeps the invariants. -/
theorem exec_good (c : Instr) (h : exec c s = .next t) : Good A s t := by
  cases c with
  | powerOn _ _ _ => exact execPowerOn_good hm _ _ _ h
  | describe _ _ => exact execDescribe_good hm _ _ h
  | queryStatus _ _ => exact execQueryStatus_good hm _ _ h
  | queryLocations _ _ => exact execQueryLocations_good hm _ _ h
  | queryRequest _ _ => exact execQueryRequest_good hm _ _ h
  | queryMap _ _ => exact execQueryMap_good hm _ _ h
  | move _ _ => exact execMove_good hm _ _ h
  | scan _ _ => exact execScan_good hm _ _ h
  | stow _ _ => exact execStow_good hm _ _ h
  | confirm _ _ => exact execConfirm_good hm _ _ h
  | divert _ _ => exact execDivert_good hm _ _ h
  | returnHome _ _ => exact execReturnHome_good hm _ _ h
  | cancel _ _ => exact execCancel_good hm _ _ h
  | abortAll _ _ => exact execAbortAll_good hm _ _ h
  | pause _ _ => exact execPause_good hm _ _ h
  | resume _ _ => exact execResume_good hm _ _ h
  | portUnlock _ _ => exact execPortUnlock_good hm _ _ h
  | portLock _ _ => exact execPortLock_good hm _ _ h
  | maintenanceEnter _ _ => exact execMaintenanceEnter_good hm _ _ h
  | maintenanceLeave _ _ => exact execMaintenanceLeave_good hm _ _ h
  | setExposed _ _ => exact execSetExposed_good hm _ _ h
  | retireSlot _ _ => exact execRetireSlot_good hm _ _ h
  | consolidate _ _ => exact execConsolidate_good hm _ _ h
  | setParameters _ _ => exact execSetParameters_good hm _ _ h
  | noticeAck _ _ => exact execNoticeAck_good hm _ _ h
  | recover _ _ => exact execRecover_good hm _ _ h
  | resetSoft _ _ _ => exact execResetSoft_good hm _ _ _ h
  | resetFull _ _ => exact execResetFull_good hm _ _ h
  | resetFullReload _ => exact execResetFullReload_good hm _ h
  | unknownRequest _ _ _ => exact execUnknownRequest_good hm _ _ _ h
  | frameBadCheck _ => exact execFrameBadCheck_good hm _ h
  | frameLengthExceeded _ _ => exact execFrameLengthExceeded_good hm _ _ h
  | interByteGapTimeout _ _ => exact execInterByteGapTimeout_good hm _ _ h
  | byteWithoutStopBit => exact execByteWithoutStopBit_good hm h
  | frameSent => exact execFrameSent_good hm h
  | homeOutcome _ _ _ => exact execHomeOutcome_good hm _ _ _ h
  | travelOutcome _ _ _ => exact execTravelOutcome_good hm _ _ _ h
  | pickOutcome _ _ _ => exact execPickOutcome_good hm _ _ _ h
  | placeOutcome _ _ => exact execPlaceOutcome_good hm _ _ h
  | retractOutcome _ _ _ => exact execRetractOutcome_good hm _ _ _ h
  | probeOutcome _ _ => exact execProbeOutcome_good hm _ _ h
  | readOutcome _ _ => exact execReadOutcome_good hm _ _ h
  | parkOutcome _ _ => exact execParkOutcome_good hm _ _ h
  | unparkOutcome _ _ _ => exact execUnparkOutcome_good hm _ _ _ h
  | stageTimerExpiry _ => exact execStageTimerExpiry_good hm _ h
  | parkTimerExpiry => exact execParkTimerExpiry_good hm h
  | confirmTimerExpiry => exact execConfirmTimerExpiry_good hm h
  | loadTimerExpiry _ => exact execLoadTimerExpiry_good hm _ h
  | ejectTimerExpiry _ => exact execEjectTimerExpiry_good hm _ h
  | repeatTimerExpiry => exact execRepeatTimerExpiry_good hm h
  | presentRising _ _ => exact execPresentRising_good hm _ _ h
  | presentFalling _ => exact execPresentFalling_good hm _ h
  | acceptedRising _ => exact execAcceptedRising_good hm _ h
  | ejectReadyRising _ => exact execEjectReadyRising_good hm _ h
  | cartridgeFalling _ _ => exact execCartridgeFalling_good hm _ _ h
  | doorOpening => exact execDoorOpening_good hm h
  | doorClosing => exact execDoorClosing_good hm h
  | emergencyStopAsserted _ => exact execEmergencyStopAsserted_good hm _ h
  | emergencyStopReleased => exact execEmergencyStopReleased_good hm h
  | bankWriteComplete _ => exact execBankWriteComplete_good hm _ h
  | syncReceived _ => exact execSyncReceived_good hm _ h
  | powerLoss => exact execPowerLoss_good h

end

/-! ### O53 to O59: every step keeps the invariants -/

theorem State.withPending_calm (s : State) (r : List Instr) : Calm A s (s.withPending r) :=
  { Calm.refl (A := A) s with }

/-- A step keeps every invariant; the mechanism's is kept from a state that has it. -/
theorem step_good {s t : State} (h : step s = .next t) : Good (MechanismOk s) s t := by
  unfold step at h
  split at h
  · obtain rfl := Host.Outcome.next.inj h
    exact Good.refl s
  · rename_i c r _
    have h1 := s.withPending_calm (A := MechanismOk s) r
    exact h1.good.trans (exec_good (h1.mech_of id) c h)

/-- Settles O53 (R115): the port's writers each give it the lock and mark of its state. -/
theorem portOkKept : Obligations.PortOkKept := fun _ _ hs h => (step_good h).port hs

/-- Settles O54 (R8, R100): a bay changes its state with its outputs and its location. -/
theorem baysOkKept : Obligations.BaysOkKept := fun _ _ hs h => (step_good h).bays hs

/-- Settles O55 (R7, R11): every inventory update computes the flags afresh. -/
theorem labelsOkKept : Obligations.LabelsOkKept := fun _ _ hs h => (step_good h).labels hs

/-- Settles O56 (R140, R142, R145, R147): notices enter one at a time where a place is free. -/
theorem noticesOkKept : Obligations.NoticesOkKept := fun _ _ hs h => (step_good h).notices hs

/-- Settles O57 (R39, R42): an entry joins only with a free tag and a place. -/
theorem queueOkKept : Obligations.QueueOkKept := fun _ _ hs h => (step_good h).queue hs

/-- Settles O58 (R35, R37, R170): a commit's end answers the reply that waits, or starts the commit it waits on. -/
theorem storeOkKept : Obligations.StoreOkKept := fun _ _ hs h => (step_good h).store hs

/-- Settles O59 (R65, R67, R87, R161, R163): a mechanism that must be still has no job that could move it. -/
theorem mechanismOkKept : Obligations.MechanismOkKept := fun _ _ hs h => (step_good h).mech hs hs

end Sys2Proof.Machine

/-! SUPPORT. The block, its commands and power (chapters 1, 2 and 10). -/

namespace Sys2Proof.Machine

/-! ### O1 -/

/-- Settles O1: a step looks at the queue of commands alone. -/
theorem stepTakesTheFrontCommand : Obligations.StepTakesTheFrontCommand := by
  intro s
  refine ⟨fun h => ?_, fun c r h => ?_⟩
  · unfold step
    rw [h]
  · unfold step
    rw [h]

/-! ### O2 -/

/-- The answer `a`, given in `s`, is a next state, and that of a part without power the state itself. -/
def Answers (s : State) (a : Answer) : Prop := ∃ t, a = .next t ∧ (s.powered = false → t = s)

theorem State.event_answers (s : State) (f : State → State) : Answers s (s.event f) := by
  cases h : s.powered with
  | true => exact ⟨_, State.event_powered h f, fun hd => by simp [h] at hd⟩
  | false => exact ⟨s, State.event_dark h f, fun _ => rfl⟩

theorem execPowerLoss_answers (s : State) : Answers s (execPowerLoss s) := by
  unfold execPowerLoss
  split
  · exact ⟨_, rfl, fun hd => by simp [hd] at *⟩
  · exact ⟨s, rfl, fun _ => rfl⟩

/-- A RESET whose body has the other row's level changes nothing; else it is an event. -/
theorem execReset_answers (s : State) (p : Prop) [Decidable p] (f : State → State) :
    Answers s (if p then .next s else s.event f) := by
  split
  · exact ⟨s, rfl, fun _ => rfl⟩
  · exact s.event_answers f

theorem State.request_answers {α : Type} (s : State) (q k : Byte) (b : List Byte) (parse : List Byte → Except Nat α)
    (act : State → α → State) : Answers s (s.request q k b parse act) := s.event_answers _

/-- Every command but POWER_ON is an event, or POWER_LOSS, which a dark part does not take. -/
theorem exec_answers (c : Instr) (s : State) (hc : ∀ a b d, c ≠ .powerOn a b d) : Answers s (exec c s) := by
  cases c
  case powerOn a b d => exact absurd rfl (hc a b d)
  case powerLoss => exact execPowerLoss_answers s
  case resetSoft q b x => exact execReset_answers s (b = [0x01#8]) _
  case resetFull q b => exact execReset_answers s (b = [0x00#8]) _
  case describe | queryStatus | queryLocations | queryRequest | queryMap | move | scan | stow | confirm | divert
    | returnHome | cancel | abortAll | pause | resume | portUnlock | portLock | maintenanceEnter | maintenanceLeave
    | setExposed | retireSlot | consolidate | setParameters | noticeAck | recover =>
    dsimp only [exec]
    exact s.request_answers _ _ _ _ _
  all_goals
    dsimp only [exec]
    exact s.event_answers _

/-- Settles O2: what is no POWER_ON does nothing to a dark part (log entry 12). -/
theorem everyCommandAnswers : Obligations.EveryCommandAnswers := by
  intro c s
  by_cases h : ∃ a b d, c = .powerOn a b d
  · obtain ⟨a, b, d, rfl⟩ := h
    exact ⟨_, rfl, fun _ hc => absurd rfl (hc a b d)⟩
  · obtain ⟨t, ht, hd⟩ := exec_answers c s fun a b d hc => h ⟨a, b, d, hc⟩
    exact ⟨t, ht, fun hp _ => hd hp⟩

/-! ### O3 and O60 -/

/-- Settles O3 (log entry 1). -/
theorem resetIsAPowerOn : Obligations.ResetIsAPowerOn := by
  unfold Obligations.ResetIsAPowerOn
  rfl

/-- Settles O60: POWER_ON of a dark part, which has every invariant, answers the reset state (O3). -/
theorem invariantsHoldAtReset : Obligations.InvariantsHoldAtReset :=
  (exec_good (A := True) (fun _ => (State.dark_allOk _).2.2.2.2.2.2) _ resetIsAPowerOn).allOk (State.dark_allOk _)

end Sys2Proof.Machine

namespace Sys2Proof.Machine

/-! ### An attention that enters at once -/

/-- Where a place is free and nothing waits or is folded, an attention enters. -/
theorem State.askAttention_entered {s : State} (hp : s.notices.queue.length < 24) (ha : s.notices.admission = [])
    (hs : s.notices.summary = []) (a : Attention) :
    (s.askAttention a).notices =
      { s.notices with
        queue := s.notices.queue ++ [⟨s.notices.next, 1, .attention a⟩], next := s.notices.next + 1,
        repeatTimer :=
          if s.notices.queue.isEmpty then some s.params.repeatInterval else s.notices.repeatTimer } := by
  have hc : (s.notices.admission.isEmpty && s.notices.hasPlace && s.notices.summary.isEmpty) = true := by
    simp [ha, hs, (hasPlace_iff _).mpr hp]
  unfold State.askAttention
  rw [if_pos hc, State.enterNotice_notices]

/-! ### The load of the map store (R33, R34) -/

/-- The notices of a load: none, or the one it asks for, numbered 0. -/
def FirstNotice (n : Notices) : Prop :=
  n.admission = [] ∧ n.summary = []
    ∧ ((n.queue = [] ∧ n.next = 0) ∨ ∃ a, n.queue = [⟨0, 1, .attention a⟩] ∧ n.next = 1)

theorem State.askAttention_first {s : State} (h : s.notices = Notices.atPower) (a : Attention) :
    (s.askAttention a).notices.queue = [⟨0, 1, .attention a⟩] ∧ FirstNotice (s.askAttention a).notices := by
  have hn := s.askAttention_entered (by simp [h, Notices.atPower]) (by simp [h, Notices.atPower])
    (by simp [h, Notices.atPower]) a
  rw [hn, h]
  exact ⟨rfl, rfl, rfl, .inr ⟨a, rfl, rfl⟩⟩

/-- A commit asked for with none in flight, and what it leaves of the store. -/
theorem State.askCommit_idle {s : State} (h : s.store.commit = none) :
    s.askCommit.store.newest = s.store.newest ∧ s.askCommit.store.newestGen = s.store.newestGen
      ∧ s.askCommit.store.commitPending = s.store.commitPending ∧ s.askCommit.store.unsaved = s.store.unsaved
      ∧ s.askCommit.store.wait = s.store.wait
      ∧ (∃ c, s.askCommit.store.commit = some c ∧ c.target = s.store.target
          ∧ c.image.generation = s.store.newestGen + 1)
      ∧ ∀ i, (∀ c, s.askCommit.store.commit = some c → c.target ≠ i) →
          s.askCommit.store.bank i = s.store.bank i := by
  unfold State.askCommit
  rw [h]
  unfold State.startCommit Store.setBank
  dsimp only
  cases s.store.target with
  | bank0 =>
    refine ⟨rfl, rfl, rfl, rfl, rfl, ⟨_, rfl, rfl, rfl⟩, fun i hi => ?_⟩
    cases i with
    | bank0 => exact absurd rfl (hi _ rfl)
    | bank1 => rfl
  | bank1 =>
    refine ⟨rfl, rfl, rfl, rfl, rfl, ⟨_, rfl, rfl, rfl⟩, fun i hi => ?_⟩
    cases i with
    | bank0 => rfl
    | bank1 => exact absurd rfl (hi _ rfl)

/-- `t` is `u`, in which no commit is in flight and no notice queued, after it has asked for an attention and a commit. -/
structure AskedBoth (u t : State) (a : Attention) : Prop where
  newest : t.store.newest = u.store.newest
  newestGen : t.store.newestGen = u.store.newestGen
  commitPending : t.store.commitPending = u.store.commitPending
  unsaved : t.store.unsaved = u.store.unsaved
  wait : t.store.wait = u.store.wait
  commit : ∃ c, t.store.commit = some c ∧ c.target = u.store.target ∧ c.image.generation = u.store.newestGen + 1
  banks : ∀ i, (∀ c, t.store.commit = some c → c.target ≠ i) → t.store.bank i = u.store.bank i
  params : t.params = u.params
  map : t.map = u.map
  nPhys : t.nPhys = u.nPhys
  queue : t.notices.queue = [⟨0, 1, .attention a⟩]
  first : FirstNotice t.notices

theorem State.askBoth (u : State) (a : Attention) (hn : u.notices = Notices.atPower) (hc : u.store.commit = none) :
    AskedBoth u (u.askAttention a).askCommit a := by
  obtain ⟨hq, hf⟩ := u.askAttention_first hn a
  obtain ⟨n, f, h⟩ := u.askAttention_frame a
  rw [h] at hq hf ⊢
  obtain ⟨k1, k2, k3, k4, k5, k6, k7⟩ := State.askCommit_idle
    (s := { u with notices := n, link := { u.link with noticeFrames := f } }) hc
  obtain ⟨st, h'⟩ := State.askCommit_frame { u with notices := n, link := { u.link with noticeFrames := f } }
  rw [h'] at k1 k2 k3 k4 k5 k6 k7 ⊢
  exact ⟨k1, k2, k3, k4, k5, k6, k7, rfl, rfl, rfl, hq, hf⟩

/-- A retirement leaves fault counts that are all 0. -/
theorem SlotMap.retire_faults {N : Nat} {m : SlotMap} {k : Nat} (h : m.faults = List.replicate k 0) (p : Nat) :
    (m.retire N p).faults = List.replicate k 0 := by
  unfold SlotMap.retire
  dsimp only
  rw [h]
  refine List.eq_replicate_iff.mpr ⟨by simp, fun b hb => ?_⟩
  rcases List.mem_or_eq_of_mem_set hb with hb | rfl
  · exact List.eq_of_mem_replicate hb
  · rfl

theorem foldl_retire_faults {N k : Nat} (gs : List GrownEntry) : ∀ {m : SlotMap}, m.faults = List.replicate k 0 →
    (gs.foldl (fun a g => a.retire N g.slot) m).faults = List.replicate k 0 := by
  induction gs with
  | nil => exact fun h => h
  | cons g gs ih => exact fun h => ih (SlotMap.retire_faults h g.slot)

/-- An adjusted map keeps fault counts that are all 0. -/
theorem SlotMap.adjusted_faults {N : Nat} {m w : SlotMap} {k : Nat} (h : m.faults = List.replicate k 0)
    (hw : SlotMap.adjusted N m = some w) : w.faults = List.replicate k 0 := by
  unfold SlotMap.adjusted at hw
  dsimp only at hw
  split_ifs at hw
  · obtain rfl := Option.some.inj hw
    exact h
  · obtain rfl := Option.some.inj hw
    exact foldl_retire_faults _ h

/-- A bank of the store does not depend on what the store holds beside the banks. -/
theorem Store.bank_congr {a b : Store} (h0 : a.bank0 = b.bank0) (h1 : a.bank1 = b.bank1) (i : BankId) :
    a.bank i = b.bank i := by
  cases i
  · exact h0
  · exact h1

theorem State.loadFrom_loads {s r : State} {i : BankId} (h : s.notices = Notices.atPower)
    (hi : r.store.loadBank = some i) (hb : ∀ j, s.store.bank j = r.store.bank j)
    (hs : s.store.commit = none ∧ s.store.commitPending = false ∧ s.store.unsaved = false ∧ s.store.wait = none) :
    LoadsMap r.store (s.loadFrom i) ∧ FirstNotice (s.loadFrom i).notices
      ∧ (s.loadFrom i).map.faults = List.replicate s.nPhys 0 := by
  obtain ⟨hs1, hs2, hs3, hs4⟩ := hs
  unfold State.loadFrom
  dsimp only
  rw [hb i]
  split
  · rename_i hadj
    refine ⟨⟨hi.symm, hs2, hs3, hs4, fun j _ => (Store.bank_congr rfl rfl j).trans (hb j), ?_,
      fun hn => by simp [hi] at hn⟩, ⟨?_, ?_, .inl ⟨?_, ?_⟩⟩, rfl⟩
    · rintro j g hj rfl
      obtain rfl := Option.some.inj (hi.symm.trans hj)
      exact ⟨rfl, rfl, fun _ => ⟨rfl, hs1⟩, fun m hm => absurd (hadj.symm.trans hm) (by simp)⟩
    all_goals
      rw [h]
      rfl
  · rename_i m hm
    suffices hk : ∀ t, AskedBoth
        { s with
          map := m, params := (r.store.bank i).image.params,
          store := { s.store with newest := some i, newestGen := (r.store.bank i).image.generation } } t
        (.mapAdjusted (s.nPhys - m.base.length) m.exposed m.base.length m.grown.length) →
        LoadsMap r.store t ∧ FirstNotice t.notices ∧ t.map.faults = List.replicate s.nPhys 0 from
      hk _ (State.askBoth _ _ h hs1)
    intro t k
    have hN : t.nPhys = s.nPhys := k.nPhys
    refine ⟨⟨k.newest.trans hi.symm, k.commitPending.trans hs2, k.unsaved.trans hs3, k.wait.trans hs4,
      fun j hj => ((k.banks j hj).trans (Store.bank_congr rfl rfl j)).trans (hb j), ?_,
      fun hn => by simp [hi] at hn⟩, k.first, k.map ▸ SlotMap.adjusted_faults rfl hm⟩
    rintro j g hj rfl
    obtain rfl := Option.some.inj (hi.symm.trans hj)
    obtain ⟨c, hc, -, hg⟩ := k.commit
    rw [hN]
    refine ⟨k.newestGen, k.params, fun hn => absurd (hm.symm.trans hn) (by simp), fun m' hm' => ?_⟩
    obtain rfl := Option.some.inj (hm.symm.trans hm')
    exact ⟨k.map, ⟨c, hc, hg⟩, List.mem_of_mem_head? (by rw [k.queue]; rfl)⟩

theorem State.loadDefault_loads {s r : State} (h : s.notices = Notices.atPower)
    (hi : r.store.loadBank = none) (hb : ∀ j, s.store.bank j = r.store.bank j)
    (hs : s.store.commit = none ∧ s.store.commitPending = false ∧ s.store.unsaved = false ∧ s.store.wait = none) :
    LoadsMap r.store s.loadDefault ∧ FirstNotice s.loadDefault.notices
      ∧ s.loadDefault.map.faults = List.replicate s.nPhys 0 := by
  obtain ⟨hs1, hs2, hs3, hs4⟩ := hs
  suffices hk : ∀ t, AskedBoth
      { s with
        map := SlotMap.defaulted s.nPhys, params := Params.default,
        store := { s.store with newest := none, newestGen := 0 } } t .storeDefaulted →
      LoadsMap r.store t ∧ FirstNotice t.notices ∧ t.map.faults = List.replicate s.nPhys 0 from
    hk _ (State.askBoth _ _ h hs1)
  intro t k
  have hN : t.nPhys = s.nPhys := k.nPhys
  obtain ⟨c, hc, ht, hg⟩ := k.commit
  refine ⟨⟨k.newest.trans hi.symm, k.commitPending.trans hs2, k.unsaved.trans hs3, k.wait.trans hs4,
      fun j hj => ((k.banks j hj).trans (Store.bank_congr rfl rfl j)).trans (hb j),
      fun j g hj => by simp [hi] at hj, fun _ => ⟨k.newestGen, k.params, ?_, ⟨c, hc, ht, hg⟩, ?_⟩⟩, k.first,
      congrArg SlotMap.faults k.map⟩
  · rw [hN]
    exact k.map
  · exact List.mem_of_mem_head? (by rw [k.queue]; rfl)

/-- The load of the map store, with the notices fresh: what it loads, and what it asks for. -/
theorem State.load_loads {s : State} (h : s.notices = Notices.atPower) :
    LoadsMap s.store s.load ∧ FirstNotice s.load.notices
      ∧ s.load.map.faults = List.replicate s.nPhys 0 := by
  have hb : ∀ j,
      Store.bank { s.store with commit := none, commitPending := false, unsaved := false, wait := none } j
        = s.store.bank j := Store.bank_congr rfl rfl
  unfold State.load
  dsimp only
  split
  · exact State.loadFrom_loads h ‹_› hb ⟨rfl, rfl, rfl, rfl⟩
  · exact State.loadDefault_loads h ‹_› hb ⟨rfl, rfl, rfl, rfl⟩

end Sys2Proof.Machine

namespace Sys2Proof.Machine

/-! ### A start from the power-on values (R154) -/

/-- `t` is what `x` comes to when every block has taken its power-on values and a start has been made. -/
structure Started (x t : State) : Prop where
  powered : t.powered = x.powered
  straps : t.straps = x.straps
  pins : t.pins = x.pins
  queue : t.queue = ⟨[], false, 0⟩
  inv : t.inv = x.invAtPower
  bays : t.bays = (List.range x.nBays).map x.bayAtPower
  port : t.port = Port.atPower x.pins.doorOpen
  faults : t.map.faults = List.replicate x.nPhys 0
  loads : LoadsMap x.store t
  ctl : t.ctl = ⟨if x.ctl.stopLine then .stopped else .initializing, .ready, x.ctl.stopLine⟩
  picker : t.seq.picker = if x.ctl.stopLine then .unhomed else .homing
  parkTimer : t.seq.parkTimer = none
  confirmTimer : t.seq.confirmTimer = none
  outstanding : t.mech.outstanding = if x.ctl.stopLine then none else some ⟨1, .home, none⟩
  first : t.notices.queue.head?.map (·.number) = some 0
  told : ∃ n, ⟨n, 1, .attention (.modeChanged none t.ctl.mode none .start none)⟩ ∈ t.notices.queue
  link : ∃ f, t.link = { x.link with noticeFrames := f }

/-- What the store has loaded does not depend on the blocks beside it. -/
theorem LoadsMap.congr {st : Store} {u t : State} (h : LoadsMap st u) (hs : t.store = u.store) (hm : t.map = u.map)
    (hp : t.params = u.params) (hN : t.nPhys = u.nPhys) (hq : ∀ n ∈ u.notices.queue, n ∈ t.notices.queue) :
    LoadsMap st t := by
  obtain ⟨h1, h2, h3, h4, h5, h6, h7⟩ := h
  unfold LoadsMap
  rw [hs, hm, hp, hN]
  refine ⟨h1, h2, h3, h4, h5, fun i g hi hg => ?_, fun hi => ?_⟩
  · obtain ⟨k1, k2, k3, k4⟩ := h6 i g hi hg
    refine ⟨k1, k2, k3, fun m hm' => ?_⟩
    obtain ⟨l1, l2, l3⟩ := k4 m hm'
    exact ⟨l1, l2, hq _ l3⟩
  · obtain ⟨k1, k2, k3, k4, k5⟩ := h7 hi
    exact ⟨k1, k2, k3, k4, hq _ k5⟩

/-- MODE_CHANGED enters behind the notice of the load, if there is one. -/
theorem State.askAttention_second {s : State} (h : FirstNotice s.notices) (a : Attention) :
    (s.askAttention a).notices.queue.head?.map (·.number) = some 0
      ∧ (∃ n, ⟨n, 1, .attention a⟩ ∈ (s.askAttention a).notices.queue)
      ∧ ∀ n ∈ s.notices.queue, n ∈ (s.askAttention a).notices.queue := by
  obtain ⟨ha, hs, hq⟩ := h
  have hl : s.notices.queue.length < 24 := by
    rcases hq with ⟨hq, -⟩ | ⟨b, hq, -⟩ <;> simp [hq]
  rw [s.askAttention_entered hl ha hs a]
  refine ⟨?_, ⟨s.notices.next, by simp⟩, fun n hn => List.mem_append_left _ hn⟩
  rcases hq with ⟨hq, hn⟩ | ⟨b, hq, hn⟩ <;> simp [hq, hn]

/-- A start of a mechanism at its power-on values: MODE_CHANGED is asked for, and homing begins unless the line is
asserted. -/
theorem State.start_frame (s : State) (hq : s.seq = Sequencer.atPower) (hm : s.mech = Mech.atPower) :
    ∃ n f j k l, s.start =
        { s with
          ctl := { s.ctl with mode := s.startMode }, notices := n, link := { s.link with noticeFrames := f },
          seq := ⟨j, if s.ctl.stopLine then .unhomed else .homing, none, none⟩,
          mech := ⟨if s.ctl.stopLine then none else some ⟨1, .home, none⟩, k, l⟩ }
      ∧ n = (State.askAttention { s with ctl := { s.ctl with mode := s.startMode } }
          (.modeChanged none s.startMode none .start none)).notices := by
  obtain ⟨n, f, h⟩ := State.askAttention_frame { s with ctl := { s.ctl with mode := s.startMode } }
    (.modeChanged none s.startMode none .start none)
  unfold State.start State.homeIfReleased
  rw [h]
  by_cases hstop : s.ctl.stopLine = true
  · simp only [hstop, if_true]
    exact ⟨n, f, none, 0, none, by rw [hq, hm]; rfl, rfl⟩
  · simp only [hstop]
    refine ⟨n, f, some (Job.enter (Job.fresh (.homing false) none) (.home .firstProper) s.params.retries), 1,
      some (4 * s.params.stageLimit), ?_, rfl⟩
    simp [State.beginHoming, State.beginStage, State.sendOrder, hq, hm, Mech.atPower, Sequencer.atPower, Stage.picker,
      Stage.order, State.target, State.stageLength]

theorem State.powerUp_start (x : State) : Started x x.powerUp.start := by
  obtain ⟨hl, hf, hz⟩ := State.load_loads (s := { x with
    queue := Queue.atPower, inv := x.invAtPower, seq := Sequencer.atPower, mech := Mech.atPower,
    bays := (List.range x.nBays).map x.bayAtPower, port := Port.atPower x.pins.doorOpen,
    notices := Notices.atPower, ctl := { x.ctl with ret := .ready } }) rfl
  obtain ⟨m, p, st, n, f, hload⟩ := State.load_frame { x with
    queue := Queue.atPower, inv := x.invAtPower, seq := Sequencer.atPower, mech := Mech.atPower,
    bays := (List.range x.nBays).map x.bayAtPower, port := Port.atPower x.pins.doorOpen,
    notices := Notices.atPower, ctl := { x.ctl with ret := .ready } }
  unfold State.powerUp
  rw [hload] at hl hf hz ⊢
  obtain ⟨n', f', j, k, l, hstart, hn'⟩ := State.start_frame { x with
    queue := Queue.atPower, inv := x.invAtPower, seq := Sequencer.atPower, mech := Mech.atPower,
    bays := (List.range x.nBays).map x.bayAtPower, port := Port.atPower x.pins.doorOpen, map := m, params := p,
    store := st, notices := n, link := { x.link with noticeFrames := f }, ctl := { x.ctl with ret := .ready } } rfl rfl
  rw [hstart]
  obtain ⟨h1, h2, h3⟩ := State.askAttention_second
    (s := { x with
      queue := Queue.atPower, inv := x.invAtPower, seq := Sequencer.atPower, mech := Mech.atPower,
      bays := (List.range x.nBays).map x.bayAtPower, port := Port.atPower x.pins.doorOpen,
      map := m, params := p, store := st, notices := n, link := { x.link with noticeFrames := f },
      ctl := ⟨if x.ctl.stopLine then .stopped else .initializing, .ready, x.ctl.stopLine⟩ }) hf
    (.modeChanged none (if x.ctl.stopLine then .stopped else .initializing) none .start none)
  exact ⟨rfl, rfl, rfl, rfl, rfl, rfl, rfl, hz, hl.congr rfl rfl rfl rfl fun a ha => hn' ▸ h3 a ha, rfl, rfl, rfl, rfl,
    rfl, hn' ▸ h1, hn' ▸ h2, ⟨_, rfl⟩⟩

/-- A choice in a queue with no entries, in a mode that serves none, with the picker not IDLE, does nothing. -/
theorem State.choices_nothing {s : State} (n : Nat) (hq : s.queue.entries = []) (hm : s.ctl.mode.serves = false)
    (hp : s.seq.picker ≠ .idle) : State.choices n s = s := by
  have ha : s.assertEjects = s := by
    unfold State.assertEjects
    rw [hq]
    rfl
  cases n with
  | zero => rfl
  | succ n =>
    unfold State.choices
    split
    · dsimp only
      have hd : s.auditDue = false := by simp [State.auditDue, hm]
      rw [ha, hd, hq]
      simp [State.startPark, hp]
    · rfl

/-- A start ends its event with the transmitter alone. -/
theorem Started.settle {x t : State} (h : Started x t) (old : State) :
    State.settle old t = { t with link := t.link.startNext } := by
  have hc : State.choose old t = t := by
    unfold State.choose
    split
    · refine State.choices_nothing _ (by rw [h.queue]) ?_ ?_
      · rw [h.ctl]
        cases x.ctl.stopLine <;> rfl
      · rw [h.picker]
        cases x.ctl.stopLine <;> decide
    · rfl
  unfold State.settle
  rw [hc]

/-! ### O4 -/

theorem BayState.occ_eq (st : BayState) : st.occ = if st = .absent ∨ st = .empty then .empty else .occupied := by
  cases st <;> rfl

theorem derivedState_eq (p : DrivePins) :
    derivedState p =
      if p.present = false then .absent
      else if p.lines.accepted = true then .loaded
      else if p.lines.cartridge = true then .ejected
      else .empty := by
  unfold derivedState
  cases p.present <;> rfl

/-- The part as power comes up, before its blocks take their values. -/
def State.poweringUp (s : State) (straps : Straps) (pins : Pins) (stop : Bool) : State :=
  { s.dark with powered := true, straps := straps, pins := pins, ctl := ⟨.initializing, .ready, stop⟩ }

/-- POWER_ON answers a start of the part, a loss of power before it where the part was powered (log entry 12). -/
theorem exec_powerOn (straps : Straps) (pins : Pins) (stop : Bool) (s : State) :
    ∃ u, exec (.powerOn straps pins stop) s = .next { u with link := u.link.startNext }
      ∧ Started (State.poweringUp (if s.powered then s.breakCommit else s) straps pins stop) u := by
  generalize hr : (if s.powered then s.breakCommit else s) = r
  have h : Started (r.poweringUp straps pins stop) (r.powerOn straps pins stop) := State.powerUp_start _
  refine ⟨r.powerOn straps pins stop, ?_, h⟩
  rw [← h.settle (r.powerOn straps pins stop), ← hr]
  rfl

/-- Settles O4. -/
theorem powerOnValues : Obligations.PowerOnValues := by
  refine ⟨fun s => ⟨rfl, rfl⟩, rfl, rfl, derivedState_eq, BayState.occ_eq, fun straps pins stop s => ?_⟩
  obtain ⟨u, ht, h⟩ := exec_powerOn straps pins stop s
  obtain ⟨f, hl⟩ := h.link
  obtain ⟨x, r, n, hl'⟩ := u.link.startNext_frame
  have hN : u.nPhys = 24 + 12 * straps.slotGroup.val := by
    unfold State.nPhys
    rw [h.straps]
    rfl
  rw [hl', hl] at ht
  refine ⟨_, ht, h.powered, h.straps, h.pins, h.queue, ?_, congrArg Inventory.cells h.inv,
    congrArg Inventory.gripper h.inv, congrArg Inventory.bays h.inv, h.bays, h.port,
    h.faults.trans (congrArg (List.replicate · 0) hN.symm), h.ctl, h.picker, h.parkTimer, h.confirmTimer,
    h.outstanding, rfl, rfl, rfl, rfl, rfl, h.first, h.told⟩
  exact (congrArg Inventory.slots h.inv).trans (congrArg (List.replicate · _) hN.symm)

/-! ### O5 -/

theorem Store.bank_setBank_same (st : Store) (i : BankId) (b : Bank) : (st.setBank i b).bank i = b := by
  cases i <;> rfl

theorem Store.bank_setBank_ne (st : Store) {i j : BankId} (h : j ≠ i) (b : Bank) :
    (st.setBank j b).bank i = st.bank i := by
  cases i <;> cases j <;> simp_all [Store.setBank, Store.bank]

theorem State.breakCommit_bank (s : State) :
    (∀ i, (∀ c, s.store.commit = some c → c.target ≠ i) → s.breakCommit.store.bank i = s.store.bank i)
      ∧ ∀ c, s.store.commit = some c → s.breakCommit.store.bank c.target = s.store.bank c.target
          ∨ s.breakCommit.store.bank c.target = c.earlier := by
  unfold State.breakCommit
  split
  · rename_i hc
    exact ⟨fun i _ => rfl, fun c h => by simp [hc] at h⟩
  · rename_i c hc
    have same : ∀ d, s.store.commit = some d → c = d := fun d h => Option.some.inj (hc.symm.trans h)
    dsimp only
    split
    · refine ⟨fun i hi => s.store.bank_setBank_ne (hi c hc) _, fun d h => .inr ?_⟩
      obtain rfl := same d h
      exact s.store.bank_setBank_same _ _
    · exact ⟨fun _ _ => rfl, fun _ _ => .inl rfl⟩

/-- The condition on which a loaded map is adjusted (R34). -/
theorem SlotMap.adjusted_eq (N : Nat) (m : SlotMap) :
    let base := m.base.filter (· < N)
    let grown := m.grown.filter (·.slot < N)
    let calls := base.length ≠ m.base.length ∨ grown.length ≠ m.grown.length ∨ N - base.length < 12
      ∨ N - base.length < m.exposed
      ∨ ∃ g ∈ grown, (∃ p, g.substitute = some p ∧ N ≤ p) ∨ ∃ l, g.logical = some l ∧ m.exposed ≤ l
    (¬ calls → SlotMap.adjusted N m = none)
    ∧ (calls → N - base.length < 12 → SlotMap.adjusted N m = some ⟨[], [], N - 4, m.faults⟩)
    ∧ (calls → 12 ≤ N - base.length →
        SlotMap.adjusted N m
          = some (grown.foldl (fun k g => k.retire N g.slot)
              ⟨base, [], min m.exposed (N - base.length), m.faults⟩)) := by
  intro base grown calls
  have hany : grown.any (fun g => g.substitute.any (N ≤ ·) || g.logical.any (m.exposed ≤ ·)) = true
      ↔ ∃ g ∈ grown, (∃ p, g.substitute = some p ∧ N ≤ p) ∨ ∃ l, g.logical = some l ∧ m.exposed ≤ l := by
    simp [List.any_eq_true, Option.any_eq_true]
  have hcalls : (base.length ≠ m.base.length ∨ grown.length ≠ m.grown.length
      ∨ N - base.length < Config.minAvailable ∨ N - base.length < m.exposed
      ∨ grown.any (fun g => g.substitute.any (N ≤ ·) || g.logical.any (m.exposed ≤ ·)) = true) ↔ calls := by
    rw [hany]
  unfold SlotMap.adjusted
  dsimp only
  rw [if_congr hcalls rfl rfl]
  refine ⟨fun h => if_neg h, fun h hl => ?_, fun h hl => ?_⟩
  · rw [if_pos h, if_pos hl]
  · rw [if_pos h, if_neg (Nat.not_lt.mpr hl)]

theorem ascending_iff : ∀ l : List Nat, ascending l = true ↔ l.Pairwise (· < ·)
  | [] => by simp [ascending]
  | [a] => by simp [ascending]
  | a :: b :: r => by
    rw [ascending, Bool.and_eq_true, decide_eq_true_iff, ascending_iff (b :: r), List.pairwise_cons (a := a)]
    constructor
    · rintro ⟨hab, hp⟩
      refine ⟨fun c hc => ?_, hp⟩
      rcases List.mem_cons.mp hc with rfl | hc
      · exact hab
      · exact hab.trans ((List.pairwise_cons.mp hp).1 c hc)
    · exact fun ⟨h1, h2⟩ => ⟨h1 b List.mem_cons_self, h2⟩

theorem noRepeats_iff : ∀ l : List Nat, noRepeats l = true ↔ l.Nodup
  | [] => by simp [noRepeats]
  | a :: r => by simp [noRepeats, noRepeats_iff r]

/-- The validity of a bank as R32 lists it. -/
theorem Bank.valid_iff (b : Bank) :
    b.valid = true ↔ b.checkMatches = true ∧ b.image.base.Pairwise (· < ·) ∧ b.image.base.length ≤ 24
      ∧ b.image.grown.length ≤ 16 ∧ (b.image.grown.map (·.slot)).Nodup
      ∧ (∀ g ∈ b.image.grown, g.slot ∉ b.image.base) ∧ (b.image.grown.filterMap (·.substitute)).Nodup
      ∧ 1 ≤ b.image.exposed ∧ b.image.params.inRange = true := by
  simp only [Bank.valid, Bool.and_eq_true, ascending_iff, noRepeats_iff, decide_eq_true_iff, List.all_eq_true,
    Bool.not_eq_true', List.contains_eq_mem, decide_eq_false_iff_not, and_assoc]

/-- The bank that is loaded, by which banks are valid (R33). -/
theorem Store.loadBank_eq (st : Store) :
    st.loadBank =
      if st.bank0.valid = true then
        if st.bank1.valid = true then
          if 1 ≤ (st.bank1.image.generation - st.bank0.image.generation).toNat
              ∧ (st.bank1.image.generation - st.bank0.image.generation).toNat ≤ 2147483647 then some .bank1
          else some .bank0
        else some .bank0
      else if st.bank1.valid = true then some .bank1 else none := by
  unfold Store.loadBank newerGen
  cases st.bank0.valid <;> cases st.bank1.valid <;> simp

/-- Settles O5. -/
theorem mapAcrossALossOfPower : Obligations.MapAcrossALossOfPower := by
  refine ⟨rfl, fun s hp => ?_, fun straps pins stop s hp => ?_, SlotMap.adjusted_eq, fun st => ?_⟩
  · obtain ⟨h1, h2⟩ := s.breakCommit_bank
    refine ⟨s.breakCommit.dark, if_pos hp, rfl, fun i hi => ?_, fun c hc => ?_⟩
    · rw [← h1 i hi]
      exact Store.bank_congr rfl rfl i
    · rw [Store.bank_congr (a := s.breakCommit.dark.store) (b := s.breakCommit.store) rfl rfl]
      exact h2 c hc
  · obtain ⟨u, ht, h⟩ := exec_powerOn straps pins stop s
    rw [hp, if_neg Bool.false_ne_true] at h
    refine ⟨_, ht, ?_⟩
    have hl := h.loads
    unfold LoadsMap at hl ⊢
    have hb : ∀ i, (State.poweringUp s straps pins stop).store.bank i = s.store.bank i := Store.bank_congr rfl rfl
    simp only [hb] at hl
    exact hl
  · have h0 := st.bank0.valid_iff
    have h1 := st.bank1.valid_iff
    intro valid apart
    have e0 : st.bank0.valid = true ↔ valid st.bank0 := h0
    have e1 : st.bank1.valid = true ↔ valid st.bank1 := h1
    rw [st.loadBank_eq]
    refine ⟨fun a b => ?_, fun a b => ?_, fun a b => ?_, fun a b => ?_⟩
    all_goals simp [e0, e1, a, b, apart]

end Sys2Proof.Machine

/-! SUPPORT. The requests that control the machine: the hold flag, the port, the modes, and the four whose replies wait
on the map store (chapters 4, 5, 8 and 10). -/

namespace Sys2Proof.Machine

/-! ### A request answered at once (R170) -/

section
variable {α : Type} {s : State} {q : Byte} (h : s.takes q) (k : Byte) {body : List Byte}
  (hb : body.length ≤ Config.bodyMax) {parse : List Byte → Except Nat α} {act : State → α → State}
include h hb

theorem State.request_badFormat {o : Nat} (hp : parse body = .error o) :
    s.request q k body parse act = .next (s.answered q (replyFrame q k .badFormat [byteOf o])) := by
  rw [State.request_malformed h k hb hp, State.settle_answered]

theorem State.request_answered {b : α} {st : Status} {fs : List Byte} (hp : parse body = .ok b)
    (ha : act (s.accepted q) b = (s.accepted q).reply q k st fs) :
    s.request q k body parse act = .next (s.answered q (replyFrame q k st fs)) := by
  rw [State.request_taken h k hb hp, ha, State.settle_answered]

end

theorem nil_carried : ([] : List Byte).length ≤ Config.bodyMax := Nat.zero_le _

theorem one_carried (b : Byte) : [b].length ≤ Config.bodyMax := Nat.le_of_ble_eq_true rfl

section
variable {s : State} {q : Byte} (h : s.takes q) (k : Byte)
include h

/-- A request without a body, answered at once. -/
theorem State.empty_answered {act : State → Unit → State} {st : Status} {fs : List Byte}
    (ha : act (s.accepted q) () = (s.accepted q).reply q k st fs) :
    s.request q k [] parseEmpty act = .next (s.answered q (replyFrame q k st fs)) :=
  State.request_answered h k nil_carried (parse := parseEmpty) rfl ha

/-- A request with a body of one byte, answered at once. -/
theorem State.byte_answered {b : Byte} {act : State → Byte → State} {st : Status} {fs : List Byte}
    (ha : act (s.accepted q) b = (s.accepted q).reply q k st fs) :
    s.request q k [b] parseByte act = .next (s.answered q (replyFrame q k st fs)) :=
  State.request_answered h k (one_carried b) (parse := parseByte) rfl ha

theorem State.empty_completes {act : State → Unit → State} {u : State} (hu : act (s.accepted q) () = u) :
    ∃ t, s.request q k [] parseEmpty act = .next t ∧ Settled u t ∧ ChoiceMade s u t :=
  State.request_completes h k nil_carried (parse := parseEmpty) rfl hu

theorem State.byte_completes {b : Byte} {act : State → Byte → State} {u : State} (hu : act (s.accepted q) b = u) :
    ∃ t, s.request q k [b] parseByte act = .next t ∧ Settled u t ∧ ChoiceMade s u t :=
  State.request_completes h k (one_carried b) (parse := parseByte) rfl hu

end

/-! ### O25 -/

/-- Settles O25. -/
theorem holdFlag : Obligations.HoldFlag := by
  intro q s h
  unfold Completes
  dsimp only [exec]
  refine ⟨fun body o hb hp => ⟨?_, ?_⟩, ?_, ?_⟩
  · exact State.request_badFormat h _ hb hp
  · exact State.request_badFormat h _ hb hp
  · exact State.empty_completes h _ rfl
  · exact State.empty_completes h _ rfl

/-! ### O26 -/

theorem Loc.isCell_iff (x : Loc) : x.isCell = true ↔ ∃ n, x = .cell n := by
  cases x <;> simp [Loc.isCell]

theorem Entry.isPort_iff (e : Entry) : e.isPort = true ↔ ∃ x ∈ e.names, x.isCell = true := List.any_eq_true

theorem Entry.holdsPicker_iff (e : Entry) : e.holdsPicker = true ↔ e.state = .running ∨ e.state = .awaitingConfirm := by
  simp [Entry.holdsPicker]

theorem State.portBusy_iff (s : State) :
    s.portBusy = true ↔ ∃ e ∈ s.queue.entries,
      (e.state = .running ∨ e.state = .awaitingConfirm) ∧ ∃ x ∈ e.names, x.isCell = true := by
  simp only [State.portBusy, List.any_eq_true, Bool.and_eq_true, Entry.holdsPicker_iff, Entry.isPort_iff]

/-- R46, of a port that leaves SECURED. -/
theorem Entry.portChange_unsecured (p : PortState) (hp : p ≠ .secured) :
    Entry.portChange .secured p
      = fun e => if e.state = .queued ∧ e.isPort = true then { e with state := .waitingPort } else e := by
  funext e
  simp [Entry.portChange, hp]

/-- R46, of a port that becomes SECURED. -/
theorem Entry.portChange_secured (p : PortState) (hp : p ≠ .secured) :
    Entry.portChange p .secured = fun e => if e.state = .waitingPort then { e with state := .queued } else e := by
  funext e
  simp [Entry.portChange, hp]

/-- R46, of a port that is SECURED neither before nor after. -/
theorem Entry.portChange_other (p r : PortState) (hp : p ≠ .secured) (hr : r ≠ .secured) :
    Entry.portChange p r = id := by
  funext e
  simp [Entry.portChange, hp, hr]

theorem State.setPort_other (s : State) (p : Port) (hs : s.port.state ≠ .secured) (hp : p.state ≠ .secured) :
    s.setPort p = { s with port := p } := by
  unfold State.setPort
  rw [Entry.portChange_other _ _ hs hp, List.map_id]

/-- Settles O26. -/
theorem portUnlockAndLock : Obligations.PortUnlockAndLock := by
  refine ⟨Loc.isCell_iff, Entry.isPort_iff, fun q s h => ?_⟩
  unfold Completes
  dsimp only [exec]
  refine ⟨fun body o hb hp => ⟨?_, ?_⟩, fun hn => ?_, fun hs hb => ?_, fun hs hb => ?_, fun hs => ?_, fun hs => ?_,
    fun hs => ?_, fun hs => ?_⟩
  · exact State.request_badFormat h _ hb hp
  · exact State.request_badFormat h _ hb hp
  · refine State.empty_answered h _ ?_
    exact if_pos hn
  · refine State.empty_answered h _ ?_
    have hbusy : (s.accepted q).portBusy = true := (s.accepted q).portBusy_iff.2 hb
    simp [State.unlock, hs, hbusy]
  · refine State.empty_completes h _ ?_
    have hbusy : (s.accepted q).portBusy = false := Bool.eq_false_iff.2 fun hb' => hb ((s.accepted q).portBusy_iff.1 hb')
    simp [State.unlock, hs, hbusy, State.ok, State.setPort, Entry.portChange_unsecured]
  · refine State.empty_completes h _ ?_
    simp [State.lockPort, hs, State.ok, State.setPort, Entry.portChange_secured]
  · refine State.empty_completes h _ ?_
    simp [State.lockPort, hs, State.ok, State.setPort_other]
  · refine State.empty_answered h _ ?_
    rcases hs with hs | hs <;> simp [State.lockPort, hs, State.ok]
  · refine State.empty_answered h _ ?_
    simp [State.lockPort, hs]

/-! ### O27 -/

theorem State.setMode_eq (s : State) (m : LibMode) (c : ModeCause) (t : Option Tag) :
    s.setMode m c t =
      State.askAttention
        { s with
          ctl := { s.ctl with mode := m },
          seq := { s.seq with parkTimer := if m = .stopped ∨ m = .initializing then none else s.seq.parkTimer } }
        (.modeChanged (some s.ctl.mode) m (if m = .holding then some s.ctl.ret else none) c t) := by
  unfold State.setMode
  by_cases h : m = .stopped ∨ m = .initializing
  · simp only [if_pos h]
  · simp only [if_neg h]

/-- The parts of a mode that the mechanism serves keep the park timer (R70). -/
theorem State.setMode_served (s : State) (m : LibMode) (c : ModeCause) (hm : m = .ready ∨ m = .maintenance) :
    s.setMode m c
      = State.askAttention { s with ctl := { s.ctl with mode := m } } (.modeChanged (some s.ctl.mode) m none c none) := by
  rcases hm with rfl | rfl <;> rfl

/-- Settles O27. -/
theorem maintenanceByMode : Obligations.MaintenanceByMode := by
  refine ⟨State.setMode_eq, fun m => by cases m <;> rfl, rfl, rfl, fun q s h => ?_⟩
  unfold Completes
  dsimp only [exec]
  refine ⟨fun body o hb hp => ⟨?_, ?_⟩, fun hm => ?_, fun hm => ?_, fun hm => ?_, fun hm => ?_⟩
  · exact State.request_badFormat h _ hb hp
  · exact State.request_badFormat h _ hb hp
  · refine State.empty_completes h _ ?_
    refine (if_pos hm).trans ?_
    rw [State.setMode_served _ _ _ (.inr rfl)]
    rfl
  · refine State.empty_answered h _ ?_
    exact if_neg hm
  · refine State.empty_completes h _ ?_
    refine (if_pos hm).trans ?_
    rw [State.setMode_served _ _ _ (.inl rfl)]
    rfl
  · refine State.empty_answered h _ ?_
    exact if_neg hm

/-! ### O28 -/

theorem State.setMode_initializing (s : State) (c : ModeCause) :
    s.setMode .initializing c
      = State.askAttention
          { s with ctl := { s.ctl with mode := .initializing }, seq := { s.seq with parkTimer := none } }
          (.modeChanged (some s.ctl.mode) .initializing none c none) := rfl

/-- The start's homing sends its first HOME (R155). -/
theorem State.beginHoming_ordered (s : State) :
    s.beginHoming
      = s.ordered { Job.fresh (.homing false) none with stage := some (.home .firstProper) } .homing .home none := rfl

/-- A start with the line released and the mode not INITIALIZING yet (R154). -/
theorem State.restart_released {s : State} (c : ModeCause) (hl : s.ctl.stopLine = false) (hm : s.ctl.mode ≠ .initializing) :
    s.restart c = (s.setMode .initializing c).beginHoming := by
  have hl' : (s.setMode .initializing c).ctl.stopLine = false := by
    obtain ⟨p, n, f, hf⟩ := s.setMode_frame .initializing c none
    rw [hf]
    exact hl
  simp [State.restart, State.startMode, State.homeIfReleased, hl, hl', hm]

/-- Settles O28. -/
theorem recoverAndRelease : Obligations.RecoverAndRelease := by
  intro s
  unfold Completes
  dsimp only [exec]
  refine ⟨fun hp => ?_, fun q h => ⟨fun body o hb hp => ?_, fun hm => ?_, fun hm hl => ?_,
    fun hm hl => ?_⟩⟩
  · refine State.event_completes hp ?_
    rfl
  · exact State.request_badFormat h _ hb hp
  · refine State.empty_answered h _ ?_
    exact if_pos hm
  · refine State.empty_answered h _ ?_
    simp [hm, hl]
  · refine State.empty_completes h _ ?_
    refine (if_neg (fun k => k hm)).trans ((if_neg (by simp [hl])).trans ?_)
    have hmode : ((s.accepted q).ok q 0x19#8).ctl.mode = .stopped := hm
    have hline : ((s.accepted q).ok q 0x19#8).ctl.stopLine = false := hl
    rw [State.restart_released .recover hline (by simp [hmode]), State.beginHoming_ordered,
      State.setMode_initializing, hmode]
    rfl

end Sys2Proof.Machine

/-! SUPPORT. The requests whose replies wait on the map store, and the map store (chapters 2 and 10). -/

namespace Sys2Proof.Machine

/-! ### O32 -/

theorem State.mapRefusal_or (s : State) (x : Option Status) :
    s.mapRefusal.or x
      = if s.ctl.mode ≠ .maintenance then some .modeRefused
        else if s.queue.entries.any (fun e => e.state != .done) then some .queueNotEmpty else x := by
  unfold State.mapRefusal
  split
  · rfl
  · split <;> rfl

theorem State.retireRefusal_eq (s : State) (p : Nat) :
    s.retireRefusal p
      = if s.ctl.mode ≠ .maintenance then some Status.modeRefused
        else if s.queue.entries.any (fun e => e.state != .done) then some .queueNotEmpty
        else if s.nPhys ≤ p then some .noSuchLocation
        else if s.map.retired p then some .alreadyRetired
        else if 16 ≤ s.map.grown.length then some .mapFull
        else none := s.mapRefusal_or _

theorem State.consolidateRefusal_eq (s : State) :
    s.consolidateRefusal
      = if s.ctl.mode ≠ .maintenance then some Status.modeRefused
        else if s.queue.entries.any (fun e => e.state != .done) then some .queueNotEmpty
        else if 24 < s.map.base.length + s.map.grown.length then some .listOverflow
        else if s.nPhys - (s.map.base.length + s.map.grown.length) < 12 then some .listOverflow
        else none := by
  refine (s.mapRefusal_or _).trans ?_
  rw [← ite_or]

theorem State.exposedRefusal_eq (s : State) (n : Nat) :
    s.exposedRefusal n
      = if s.ctl.mode ≠ .maintenance then some Status.modeRefused
        else if s.queue.entries.any (fun e => e.state != .done) then some .queueNotEmpty
        else if s.map.grown ≠ [] then some .mapNotClean
        else if n < 1 ∨ s.available < n then some .outOfRange
        else if n < s.map.exposed ∧
            (((s.map.baseOrder s.nPhys).take s.map.exposed).drop n).any
              (fun p => (s.inv.place (.slot p)).occ != .empty) then some .slotsOccupied
        else none := by
  refine (s.mapRefusal_or _).trans ?_
  simp only [Bool.not_eq_true', List.isEmpty_eq_false_iff]
  rfl

/-- Settles O32. -/
theorem mapRequestRefusals : Obligations.MapRequestRefusals := by
  intro q s h
  dsimp only [exec]
  refine ⟨fun body o hb => ⟨fun hp => ⟨?_, ?_⟩, fun hp => ?_⟩, fun b st hst => ?_, fun st hst => ?_, fun b st hst => ?_⟩
  · exact State.request_badFormat h _ hb hp
  · exact State.request_badFormat h _ hb hp
  · exact State.request_badFormat h _ hb hp
  · refine State.byte_answered h _ ?_
    rw [show (s.accepted q).retireRefusal b.toNat = some st from (State.retireRefusal_eq _ _).trans hst]
  · refine State.empty_answered h _ ?_
    rw [show (s.accepted q).consolidateRefusal = some st from (State.consolidateRefusal_eq _).trans hst]
  · refine State.byte_answered h _ ?_
    rw [show (s.accepted q).exposedRefusal b.toNat = some st from (State.exposedRefusal_eq _ _).trans hst]

/-! ### O33 -/

section
variable {s : State} (hm : s.ctl.mode = .maintenance) (hd : ∀ e ∈ s.queue.entries, e.state = .done)
include hm hd

/-- In MAINTENANCE with every entry DONE the checks that come first pass (R27, R28, R30). -/
theorem State.mapRefusal_none : s.mapRefusal = none := by
  simpa [State.mapRefusal, hm] using hd

theorem State.retireRefusal_none {p : Nat} (hp : p < s.nPhys) (hr : s.map.retired p = false)
    (hg : s.map.grown.length < 16) : s.retireRefusal p = none := by
  simp [State.retireRefusal, State.mapRefusal_none hm hd, hr, Nat.not_le.2 hp, Nat.not_le.2 hg]

theorem State.consolidateRefusal_none (hb : s.map.base.length + s.map.grown.length ≤ 24)
    (ha : 12 ≤ s.nPhys - (s.map.base.length + s.map.grown.length)) : s.consolidateRefusal = none := by
  rw [State.consolidateRefusal, State.mapRefusal_none hm hd, Option.none_or, if_neg]
  exact not_or.2 ⟨Nat.not_lt.2 hb, Nat.not_lt.2 ha⟩

theorem State.exposedRefusal_none {n : Nat} (hg : s.map.grown = []) (h1 : 1 ≤ n) (ha : n ≤ s.available)
    (he : ∀ p ∈ ((s.map.baseOrder s.nPhys).take s.map.exposed).drop n, (s.inv.place (.slot p)).occ = .empty) :
    s.exposedRefusal n = none := by
  have hides : s.hidesSlot n = false := by
    simp only [State.hidesSlot, List.any_eq_false, bne_iff_ne, ne_eq, not_not]
    exact he
  simp [State.exposedRefusal, State.mapRefusal_none hm hd, hg, hides, Nat.not_lt.2 ha]
  omega

end

/-- R24 and R26, with the commit asked for last in each case. -/
theorem State.retire_eq (s : State) (p : Nat) (c : RetireCause) (t : Option Tag) :
    s.retire p c t =
      let g := s.map.retirement s.nPhys p
      let a := State.askAttention { s with map := s.map.retire s.nPhys p }
        (.slotRetired p c t g.logical g.substitute (s.inv.place (.slot p)).occ (s.inv.place (.slot p)).holds)
      match g.logical, g.substitute with
      | some l, none => (a.askAttention (.logicalLost l p)).askCommit
      | _, _ => a.askCommit := by
  unfold State.retire
  dsimp only
  cases (s.map.retirement s.nPhys p).logical <;> cases (s.map.retirement s.nPhys p).substitute <;> rfl

/-- Settles O33. -/
theorem mapRequestsTaken : Obligations.MapRequestsTaken := by
  intro q s h hm hd
  unfold Completes
  dsimp only [exec]
  refine ⟨fun b g hp hr hg hgrown => ?_, fun base hb ha hbase => ?_, fun b hg h1 ha he => ?_⟩
  · refine State.byte_completes h _ ?_
    rw [show (s.accepted q).retireRefusal b.toNat = none from State.retireRefusal_none (s := s.accepted q) hm hd hp hr hg]
    subst hgrown
    exact State.retire_eq _ _ _ _
  · refine State.empty_completes h _ ?_
    rw [show (s.accepted q).consolidateRefusal = none from State.consolidateRefusal_none (s := s.accepted q) hm hd hb ha]
    subst hbase
    rfl
  · have hlen : s.map.grown.length = 0 := by rw [hg]; rfl
    have hn : (s.accepted q).exposedRefusal b.toNat = none :=
      State.exposedRefusal_none (s := s.accepted q) hm hd hg h1 ha he
    refine ⟨fun hx => State.byte_completes h _ ?_, fun hx => State.byte_completes h _ ?_⟩
    · have hmap : { s.map with exposed := b.toNat } = s.map := by rw [← hx]
      rw [hn]
      refine congrArg (fun v => State.askCommit (State.deferReply v q 0x14#8)) ((if_pos hx).trans ?_)
      exact congrArg (fun m => ({ s.accepted q with map := m } : State)) hmap
    · rw [hn]
      refine congrArg (fun v => State.askCommit (State.deferReply v q 0x14#8)) ((if_neg hx).trans ?_)
      rw [← hlen]
      rfl

end Sys2Proof.Machine

/-! SUPPORT. The bodies of the requests (R177 to R181): a body is read exactly when it is laid out as a layout has it, and
every other is refused at an offset. -/

namespace Sys2Proof.Machine

/-! ### Numbers of more than one byte -/

theorem byteOf_of_toNat (b : Byte) : byteOf b.toNat = b := BitVec.ofNat_toNat 8 b

theorem be16_append (h l : Byte) : be16 (h ++ l) = [h, l] := by
  unfold be16
  rw [BitVec.extractLsb'_append_eq_left, BitVec.extractLsb'_append_eq_right]

theorem be16_eq (w : Word16) : be16 w = [byteOf (w.toNat / 256), byteOf w.toNat] := by
  unfold be16
  have hi : w.extractLsb' 8 8 = byteOf (w.toNat / 256) :=
    BitVec.eq_of_toNat_eq (by simp [byteOf, Nat.shiftRight_eq_div_pow])
  have lo : w.extractLsb' 0 8 = byteOf w.toNat := BitVec.eq_of_toNat_eq (by simp [byteOf])
  rw [hi, lo]

/-! ### What a reading makes of the bytes of its layout, and of a part of them -/

/-- The reading takes the bytes `bs`, whatever follows them, and is at fault at the end of any part of them. -/
structure Exact {α : Type} (f : Reading α) (bs : List Byte) (x : α) : Prop where
  reads : Reads f bs x
  starves : ∀ n < bs.length, ∀ o, f (bs.take n) o = .error (o + n)

theorem readByte_exact (b : Byte) : Exact readByte [b] b where
  reads := readByte_reads b
  starves n hn o := by
    obtain rfl : n = 0 := by simpa using hn
    rfl

theorem readBelow_exact {bound : Nat} {b : Byte} (h : b.toNat < bound) : Exact (readBelow bound) [b] b.toNat where
  reads := readBelow_reads h
  starves n hn o := by
    obtain rfl : n = 0 := by simpa using hn
    rfl

theorem readChars_exact (l : Label) (h : ∀ b ∈ l, 0x20 ≤ b.toNat ∧ b.toNat ≤ 0x7E) :
    Exact (readChars l.length) l l where
  reads := readChars_reads l h
  starves := by
    induction l with
    | nil => exact fun n hn => absurd hn (Nat.not_lt_zero n)
    | cons b l ih =>
      intro n hn o
      have hb := h b List.mem_cons_self
      cases n with
      | zero => rfl
      | succ n =>
        have hl := ih (fun c hc => h c (List.mem_cons_of_mem b hc)) n (Nat.lt_of_succ_lt_succ hn) (o + 1)
        simp [readChars, hb, hl, Nat.add_assoc, Nat.add_comm 1]

theorem readOptLabel_exact {l : Option Label} (h : l.all labelOk = true) :
    Exact readOptLabel (labelField l) l where
  reads := readOptLabel_reads h
  starves n hn o := by
    cases n with
    | zero => rfl
    | succ n =>
      cases l with
      | none => simp [labelField] at hn
      | some l =>
        obtain ⟨⟨h1, h16⟩, hchars⟩ := (labelOk_iff l).1 h
        have hlen : (byteOf l.length).toNat = l.length := byteOf_toNat (by omega)
        have hl := (readChars_exact l hchars).starves n (Nat.lt_of_succ_lt_succ hn) (o + 1)
        simp [labelField, readOptLabel, hlen, hl, Nat.not_lt.2 h16, show l ≠ [] by rintro rfl; simp at h1,
          Nat.add_assoc, Nat.add_comm 1]

theorem readLabel_exact {l : Label} (h : labelOk l = true) : Exact readLabel (labelField (some l)) l where
  reads := readLabel_reads h
  starves n hn o := by
    simp only [readLabel, (readOptLabel_exact (l := some l) h).starves n hn o]

theorem readRef_exact {r : Ref} (h : r.wellFormed = true) : Exact readRef r.bytes r where
  reads := readRef_reads h
  starves n hn o := by
    cases n with
    | zero => cases r <;> rfl
    | succ n =>
      cases r with
      | label l =>
        have hl := (readLabel_exact h).starves n (Nat.lt_of_succ_lt_succ hn) (o + 1)
        simp [readRef, readBelow, Ref.bytes, hl, bind, Except.bind, Nat.add_assoc, Nat.add_comm 1]
      | logical i | physical i | bay i | port i | gripper i =>
        obtain rfl : n = 0 := by
          simp only [Ref.bytes, List.length_cons, List.length_nil] at hn
          omega
        rfl

theorem readWord16_exact (w : Word16) : Exact readWord16 (be16 w) w where
  reads rest o := by
    simp only [be16, readWord16, readByte, List.cons_append, List.nil_append, bind, Except.bind, pure, Except.pure,
      List.length_cons, List.length_nil]
    exact congrArg (fun x => Except.ok (Taken.mk x rest (o + 2))) BitVec.extractLsb'_append_extractLsb'
  starves n hn o := by
    have : n = 0 ∨ n = 1 := by
      simp only [be16, List.length_cons, List.length_nil] at hn
      omega
    rcases this with rfl | rfl <;> rfl

/-- Read from the offset `o`, the body `whole` gives `b`; a part of it ends too soon, and what follows it is surplus. -/
structure Spells {β : Type} (o : Nat) (p : List Byte → Except Nat β) (whole : List Byte) (b : β) : Prop where
  read : p whole = .ok b
  short : ∀ n < whole.length, p (whole.take n) = .error (o + n)
  long : ∀ x r, p (whole ++ x :: r) = .error (o + whole.length)

theorem Spells.close {β : Type} (o : Nat) (b : β) : Spells o (fun r => Taken.close ⟨b, r, o⟩) [] b where
  read := rfl
  short n hn := absurd hn (Nat.not_lt_zero n)
  long _ _ := rfl

theorem Spells.bind {α β : Type} {o : Nat} {f : Reading α} {g : Taken α → Except Nat β} {bs cs : List Byte} {x : α}
    {b : β} (hf : Exact f bs x) (hg : Spells (o + bs.length) (fun r => g ⟨x, r, o + bs.length⟩) cs b) :
    Spells o (fun r => f r o >>= g) (bs ++ cs) b where
  read := by
    simp only [hf.reads cs o]
    exact hg.read
  short n hn := by
    by_cases h : n < bs.length
    · rw [List.take_append_of_le_length h.le, hf.starves n h]
      rfl
    · obtain ⟨k, rfl⟩ := Nat.exists_eq_add_of_le (Nat.not_lt.1 h)
      rw [List.take_length_add_append, hf.reads (cs.take k) o]
      rw [List.length_append] at hn
      rw [← Nat.add_assoc]
      exact hg.short k (by omega)
  long y r := by
    rw [List.append_assoc, hf.reads (cs ++ y :: r) o, List.length_append, ← Nat.add_assoc]
    exact hg.long y r

/-! ### What a reading takes has been laid out -/

/-- A field the reading takes stands before what is left, laid out by `enc`, and is one that `ok` allows. -/
def Only {α : Type} (f : Reading α) (enc : α → List Byte) (ok : α → Prop) : Prop :=
  ∀ bs o t, f bs o = .ok t → bs = enc t.field ++ t.rest ∧ ok t.field

theorem readByte_only : Only readByte (fun b => [b]) fun _ => True := by
  intro bs o t h
  cases bs with
  | nil => cases h
  | cons b r =>
    cases h
    exact ⟨rfl, trivial⟩

theorem readBelow_only (bound : Nat) :
    Only (readBelow bound) (fun n => [byteOf n]) fun n => n < bound := by
  intro bs o t h
  cases bs with
  | nil => cases h
  | cons b r =>
    by_cases hb : b.toNat < bound
    · obtain rfl : (⟨b.toNat, r, o + 1⟩ : Taken Nat) = t := Except.ok.inj ((if_pos hb).symm.trans h)
      exact ⟨by simp [byteOf_of_toNat], hb⟩
    · cases (if_neg hb).symm.trans h

theorem readChars_only (n : Nat) :
    Only (readChars n) id fun l => l.length = n ∧ ∀ b ∈ l, 0x20 ≤ b.toNat ∧ b.toNat ≤ 0x7E := by
  induction n with
  | zero =>
    intro bs o t h
    cases h
    exact ⟨rfl, rfl, by simp⟩
  | succ n ih =>
    intro bs o t h
    cases bs with
    | nil => cases h
    | cons b r =>
      by_cases hb : 0x20 ≤ b.toNat ∧ b.toNat ≤ 0x7E
      · rw [readChars, if_pos hb] at h
        cases hr : readChars n r (o + 1) with
        | error e => simp [hr] at h
        | ok u =>
          rw [hr] at h
          cases h
          obtain ⟨rfl, hlen, hchars⟩ := ih r (o + 1) u hr
          exact ⟨rfl, by simp [hlen], List.forall_mem_cons.2 ⟨hb, hchars⟩⟩
      · rw [readChars, if_neg hb] at h
        cases h

theorem readOptLabel_only : Only readOptLabel labelField fun l => l.all labelOk = true := by
  intro bs o t h
  cases bs with
  | nil => cases h
  | cons n r =>
    rw [readOptLabel] at h
    by_cases h0 : n.toNat = 0
    · rw [if_pos h0] at h
      cases h
      obtain rfl : n = 0#8 := BitVec.eq_of_toNat_eq h0
      exact ⟨rfl, rfl⟩
    by_cases h16 : Config.labelMax < n.toNat
    · rw [if_neg h0, if_pos h16] at h
      cases h
    rw [if_neg h0, if_neg h16] at h
    cases hr : readChars n.toNat r (o + 1) with
    | error e => simp [hr] at h
    | ok u =>
      rw [hr] at h
      cases h
      obtain ⟨rfl, hlen, hchars⟩ := readChars_only _ _ _ _ hr
      refine ⟨by simp [labelField, hlen, byteOf_of_toNat], (labelOk_iff _).2 ⟨⟨?_, ?_⟩, hchars⟩⟩
      · rw [hlen]
        exact Nat.one_le_iff_ne_zero.2 h0
      · rw [hlen]
        exact Nat.not_lt.1 h16

theorem readLabel_only : Only readLabel (fun l => labelField (some l)) fun l => labelOk l = true := by
  intro bs o t h
  rw [readLabel] at h
  split at h
  · rename_i l r o' hl
    cases h
    exact readOptLabel_only _ _ _ hl
  · cases h
  · cases h

theorem readIndex_ok {mk : Nat → Ref} {bs : List Byte} {o : Nat} {t : Taken Ref}
    (h : (readByte bs o >>= fun i => .ok ⟨mk i.field.toNat, i.rest, i.offset⟩) = .ok t) :
    ∃ b : Byte, bs = b :: t.rest ∧ t.field = mk b.toNat := by
  obtain ⟨i, hi, ht⟩ := bind_ok h
  cases ht
  exact ⟨i.field, (readByte_only _ _ _ hi).1, rfl⟩

theorem readRef_only : Only readRef Ref.bytes fun r => r.wellFormed = true := by
  intro bs o t h
  obtain ⟨⟨n, rest, o'⟩, hk, hr⟩ := bind_ok h
  obtain ⟨rfl, h6⟩ := readBelow_only 6 _ _ _ hk
  clear hk h
  dsimp only at hr h6 ⊢
  have index (mk : Nat → Ref) (hf : ∀ i, (mk i).bytes = [byteOf n, byteOf i] ∧ ((mk i).wellFormed = true ↔ i < 256))
      (hi : (readByte rest o' >>= fun i => .ok ⟨mk i.field.toNat, i.rest, i.offset⟩) = .ok t) :
      [byteOf n] ++ rest = t.field.bytes ++ t.rest ∧ t.field.wellFormed = true := by
    obtain ⟨b, rfl, ht⟩ := readIndex_ok hi
    obtain ⟨hb, hw⟩ := hf b.toNat
    rw [ht, hb, hw, byteOf_of_toNat]
    exact ⟨rfl, b.isLt⟩
  have small (i : Nat) : decide (i < 256) = true ↔ i < 256 := decide_eq_true_iff
  interval_cases n
  · exact index Ref.logical (fun i => ⟨rfl, small i⟩) hr
  · exact index Ref.physical (fun i => ⟨rfl, small i⟩) hr
  · exact index Ref.bay (fun i => ⟨rfl, small i⟩) hr
  · exact index Ref.port (fun i => ⟨rfl, small i⟩) hr
  · obtain ⟨l, hl, ht⟩ := bind_ok hr
    cases ht
    obtain ⟨rfl, hok⟩ := readLabel_only _ _ _ hl
    exact ⟨rfl, hok⟩
  · exact index Ref.gripper (fun i => ⟨rfl, small i⟩) hr

theorem readWord16_only : Only readWord16 be16 fun _ => True := by
  intro bs o t h
  obtain ⟨x, hx, h1⟩ := bind_ok h
  obtain ⟨y, hy, h2⟩ := bind_ok h1
  cases h2
  obtain ⟨hbs, -⟩ := readByte_only _ _ _ hx
  obtain ⟨hr, -⟩ := readByte_only _ _ _ hy
  simp [be16_append, hbs, hr]

theorem close_ok {β : Type} {t : Taken β} {b : β} (h : t.close = .ok b) : t.rest = [] ∧ t.field = b := by
  obtain ⟨x, r, o⟩ := t
  cases r with
  | nil => exact ⟨rfl, Except.ok.inj h⟩
  | cons => cases h

end Sys2Proof.Machine

/-! SUPPORT. Each request's body: as its layout spells it, and read as nothing else (R180, R181). -/

namespace Sys2Proof.Machine

/-! ### The bodies as their layouts spell them -/

theorem readBelow_bits {n bound : Nat} (hn : n < bound) (h : n < 256) : Exact (readBelow bound) [byteOf n] n := by
  have := readBelow_exact (bound := bound) (b := byteOf n) (by rwa [byteOf_toNat h])
  rwa [byteOf_toNat h] at this

theorem parseMove_spelled {b : MoveBody} (h : b.wellFormed = true) : Spells 0 parseMove b.bytes b := by
  obtain ⟨⟨hs, hd⟩, he⟩ := b.wellFormed_iff.1 h
  obtain ⟨hv, hk⟩ := bitsOf_testBit b.verify b.skipLabel
  have h4 : bitsOf [b.verify, b.skipLabel] < 4 := by
    cases b.verify <;> cases b.skipLabel <;> decide
  have hbytes : b.bytes = [b.tag] ++ ([byteOf (bitsOf [b.verify, b.skipLabel])]
      ++ (b.source.bytes ++ (b.dest.bytes ++ (labelField b.expected ++ [])))) := by
    simp [MoveBody.bytes]
  rw [hbytes]
  refine Spells.bind (readByte_exact _) ?_
  dsimp only
  refine Spells.bind (readBelow_bits h4 (h4.trans (by decide))) ?_
  dsimp only
  refine Spells.bind (readRef_exact hs) ?_
  dsimp only
  refine Spells.bind (readRef_exact hd) ?_
  dsimp only
  refine Spells.bind (readOptLabel_exact he) ?_
  dsimp only
  rw [hv, hk]
  exact Spells.close _ b

theorem parseScan_spelled (b : ScanBody) : Spells 0 parseScan b.bytes b := by
  have hk : b.kind.ctorIdx < 5 := by cases b.kind <;> decide
  have hkind : rangeKindOf b.kind.ctorIdx = b.kind := by cases b.kind <;> rfl
  have hbytes : b.bytes = [b.tag] ++ ([byteOf b.kind.ctorIdx] ++ ([b.first] ++ ([b.last] ++ []))) := rfl
  rw [hbytes]
  refine Spells.bind (readByte_exact _) ?_
  dsimp only
  refine Spells.bind (readBelow_bits hk (hk.trans (by decide))) ?_
  dsimp only
  refine Spells.bind (readByte_exact _) ?_
  dsimp only
  refine Spells.bind (readByte_exact _) ?_
  dsimp only
  rw [hkind]
  exact Spells.close _ b

theorem parseTagRef_spelled {b : Tag × Ref} (h : b.2.wellFormed = true) : Spells 0 parseTagRef (tagRefBytes b) b := by
  have hbytes : tagRefBytes b = [b.1] ++ (b.2.bytes ++ []) := by simp [tagRefBytes]
  rw [hbytes]
  refine Spells.bind (readByte_exact _) ?_
  dsimp only
  refine Spells.bind (readRef_exact h) ?_
  dsimp only
  exact Spells.close _ b

theorem RangeBody.wellFormed_iff (b : RangeBody) : b.wellFormed = true ↔ b.first < 256 ∧ b.last < 256 := by
  simp [RangeBody.wellFormed]

theorem parseRange_spelled {b : RangeBody} (h : b.wellFormed = true) : Spells 0 parseRange b.bytes b := by
  obtain ⟨hf, hl⟩ := b.wellFormed_iff.1 h
  have hk : b.kind.ctorIdx < 6 := by cases b.kind <;> decide
  have hkind : refKindOf b.kind.ctorIdx = b.kind := by cases b.kind <;> rfl
  have hbytes : b.bytes = [byteOf b.kind.ctorIdx] ++ ([byteOf b.first] ++ ([byteOf b.last] ++ [])) := rfl
  rw [hbytes]
  refine Spells.bind (readBelow_bits hk (hk.trans (by decide))) ?_
  dsimp only
  refine Spells.bind (readByte_exact _) ?_
  dsimp only
  refine Spells.bind (readByte_exact _) ?_
  dsimp only
  rw [hkind, byteOf_toNat hf, byteOf_toNat hl]
  exact Spells.close _ b

theorem ParamBody.wellFormed_iff (b : ParamBody) :
    b.wellFormed = true
      ↔ b.retries < 256 ∧ b.threshold < 256 ∧ b.stageLimit < 65536 ∧ b.confirmLimit < 65536 ∧ b.loadLimit < 65536
        ∧ b.ejectLimit < 65536 ∧ b.parkDelay < 65536 ∧ b.autoRelock < 256 ∧ b.repeatInterval < 65536 := by
  simp [ParamBody.wellFormed, and_assoc]

theorem word16_toNat {n : Nat} (h : n < 65536) : (BitVec.ofNat 16 n).toNat = n := Nat.mod_eq_of_lt h

theorem parseParams_spelled {b : ParamBody} (h : b.wellFormed = true) : Spells 0 parseParams b.bytes b := by
  obtain ⟨hr, ht, hs, hc, hl, he, hp, ha, hi⟩ := b.wellFormed_iff.1 h
  have hbytes : b.bytes = [byteOf b.retries] ++ ([byteOf b.threshold] ++ (be16 (BitVec.ofNat 16 b.stageLimit)
      ++ (be16 (BitVec.ofNat 16 b.confirmLimit) ++ (be16 (BitVec.ofNat 16 b.loadLimit)
      ++ (be16 (BitVec.ofNat 16 b.ejectLimit) ++ (be16 (BitVec.ofNat 16 b.parkDelay)
      ++ ([byteOf b.autoRelock] ++ (be16 (BitVec.ofNat 16 b.repeatInterval) ++ [])))))))) := by
    simp [ParamBody.bytes]
  rw [hbytes]
  refine Spells.bind (readByte_exact _) ?_
  dsimp only
  refine Spells.bind (readByte_exact _) ?_
  dsimp only
  refine Spells.bind (readWord16_exact _) ?_
  dsimp only
  refine Spells.bind (readWord16_exact _) ?_
  dsimp only
  refine Spells.bind (readWord16_exact _) ?_
  dsimp only
  refine Spells.bind (readWord16_exact _) ?_
  dsimp only
  refine Spells.bind (readWord16_exact _) ?_
  dsimp only
  refine Spells.bind (readByte_exact _) ?_
  dsimp only
  refine Spells.bind (readWord16_exact _) ?_
  dsimp only
  rw [byteOf_toNat hr, byteOf_toNat ht, word16_toNat hs, word16_toNat hc, word16_toNat hl, word16_toNat he,
    word16_toNat hp, byteOf_toNat ha, word16_toNat hi]
  exact Spells.close _ b

theorem parseAck_spelled (n : Word16) : Spells 0 parseAck (be16 n) n := by
  rw [← List.append_nil (be16 n)]
  exact Spells.bind (readWord16_exact n) (Spells.close _ n)

theorem parseAbort_spelled (x : Bool) : Spells 0 parseAbort [flagByte x] x where
  read := by cases x <;> rfl
  short n hn := by
    obtain rfl : n = 0 := by simpa using hn
    rfl
  long _ _ := by cases x <;> rfl

theorem parseReset_spelled (l : ResetLevel) : Spells 0 parseReset [byteOf l.ctorIdx] l where
  read := by cases l <;> rfl
  short n hn := by
    obtain rfl : n = 0 := by simpa using hn
    rfl
  long _ _ := by cases l <;> rfl

theorem parseByte_spelled (x : Byte) : Spells 0 parseByte [x] x :=
  Spells.bind (cs := []) (readByte_exact x) (Spells.close _ x)

theorem parseEmpty_spelled : Spells 0 parseEmpty [] () := Spells.close 0 ()

/-! ### A body that is read is spelled as its layout has it -/

theorem parseMove_only {body : List Byte} {b : MoveBody} (h : parseMove body = .ok b) :
    body = b.bytes ∧ b.wellFormed = true := by
  obtain ⟨t, ht, h⟩ := bind_ok h
  obtain ⟨f, hf, h⟩ := bind_ok h
  obtain ⟨x, hx, h⟩ := bind_ok h
  obtain ⟨d, hd, h⟩ := bind_ok h
  obtain ⟨e, he, h⟩ := bind_ok h
  obtain ⟨hnil, rfl⟩ := close_ok h
  obtain ⟨ht, -⟩ := readByte_only _ _ _ ht
  obtain ⟨hf, h4⟩ := readBelow_only _ _ _ _ hf
  obtain ⟨hx, hwx⟩ := readRef_only _ _ _ hx
  obtain ⟨hd, hwd⟩ := readRef_only _ _ _ hd
  obtain ⟨he, hwe⟩ := readOptLabel_only _ _ _ he
  have hbits : bitsOf [f.field.testBit 0, f.field.testBit 1] = f.field := by
    generalize f.field = n at h4
    interval_cases n <;> rfl
  refine ⟨?_, (MoveBody.wellFormed_iff _).2 ⟨⟨hwx, hwd⟩, hwe⟩⟩
  rw [ht, hf, hx, hd, he, hnil]
  simp [MoveBody.bytes, hbits, -Nat.testBit_zero]

theorem parseScan_only {body : List Byte} {b : ScanBody} (h : parseScan body = .ok b) : body = b.bytes := by
  obtain ⟨t, ht, h⟩ := bind_ok h
  obtain ⟨k, hk, h⟩ := bind_ok h
  obtain ⟨f, hf, h⟩ := bind_ok h
  obtain ⟨l, hl, h⟩ := bind_ok h
  obtain ⟨hnil, rfl⟩ := close_ok h
  obtain ⟨ht, -⟩ := readByte_only _ _ _ ht
  obtain ⟨hk, h5⟩ := readBelow_only _ _ _ _ hk
  obtain ⟨hf, -⟩ := readByte_only _ _ _ hf
  obtain ⟨hl, -⟩ := readByte_only _ _ _ hl
  have hkind : (rangeKindOf k.field).ctorIdx = k.field := by
    generalize k.field = n at h5
    interval_cases n <;> rfl
  rw [ht, hk, hf, hl, hnil]
  simp [ScanBody.bytes, RangeKind.code, hkind]

theorem parseTagRef_only {body : List Byte} {b : Tag × Ref} (h : parseTagRef body = .ok b) :
    body = tagRefBytes b ∧ b.2.wellFormed = true := by
  obtain ⟨t, ht, h⟩ := bind_ok h
  obtain ⟨r, hr, h⟩ := bind_ok h
  obtain ⟨hnil, rfl⟩ := close_ok h
  obtain ⟨ht, -⟩ := readByte_only _ _ _ ht
  obtain ⟨hr, hw⟩ := readRef_only _ _ _ hr
  refine ⟨?_, hw⟩
  rw [ht, hr, hnil]
  simp [tagRefBytes]

theorem parseRange_only {body : List Byte} {b : RangeBody} (h : parseRange body = .ok b) :
    body = b.bytes ∧ b.wellFormed = true := by
  obtain ⟨k, hk, h⟩ := bind_ok h
  obtain ⟨f, hf, h⟩ := bind_ok h
  obtain ⟨l, hl, h⟩ := bind_ok h
  obtain ⟨hnil, rfl⟩ := close_ok h
  obtain ⟨hk, h6⟩ := readBelow_only _ _ _ _ hk
  obtain ⟨hf, -⟩ := readByte_only _ _ _ hf
  obtain ⟨hl, -⟩ := readByte_only _ _ _ hl
  have hkind : (refKindOf k.field).ctorIdx = k.field := by
    generalize k.field = n at h6
    interval_cases n <;> rfl
  refine ⟨?_, (RangeBody.wellFormed_iff _).2 ⟨f.field.isLt, l.field.isLt⟩⟩
  rw [hk, hf, hl, hnil]
  simp [RangeBody.bytes, hkind, byteOf_of_toNat]

theorem parseParams_only {body : List Byte} {b : ParamBody} (h : parseParams body = .ok b) :
    body = b.bytes ∧ b.wellFormed = true := by
  obtain ⟨r, hr, h⟩ := bind_ok h
  obtain ⟨t, ht, h⟩ := bind_ok h
  obtain ⟨sl, hsl, h⟩ := bind_ok h
  obtain ⟨cl, hcl, h⟩ := bind_ok h
  obtain ⟨ll, hll, h⟩ := bind_ok h
  obtain ⟨el, hel, h⟩ := bind_ok h
  obtain ⟨pd, hpd, h⟩ := bind_ok h
  obtain ⟨ar, har, h⟩ := bind_ok h
  obtain ⟨ri, hri, h⟩ := bind_ok h
  obtain ⟨hnil, rfl⟩ := close_ok h
  obtain ⟨hr, -⟩ := readByte_only _ _ _ hr
  obtain ⟨ht, -⟩ := readByte_only _ _ _ ht
  obtain ⟨hsl, -⟩ := readWord16_only _ _ _ hsl
  obtain ⟨hcl, -⟩ := readWord16_only _ _ _ hcl
  obtain ⟨hll, -⟩ := readWord16_only _ _ _ hll
  obtain ⟨hel, -⟩ := readWord16_only _ _ _ hel
  obtain ⟨hpd, -⟩ := readWord16_only _ _ _ hpd
  obtain ⟨har, -⟩ := readByte_only _ _ _ har
  obtain ⟨hri, -⟩ := readWord16_only _ _ _ hri
  refine ⟨?_, (ParamBody.wellFormed_iff _).2 ⟨r.field.isLt, t.field.isLt, sl.field.isLt, cl.field.isLt, ll.field.isLt,
    el.field.isLt, pd.field.isLt, ar.field.isLt, ri.field.isLt⟩⟩
  rw [hr, ht, hsl, hcl, hll, hel, hpd, har, hri, hnil]
  simp [ParamBody.bytes, byteOf_of_toNat]

theorem parseAck_only {body : List Byte} {n : Word16} (h : parseAck body = .ok n) : body = be16 n := by
  obtain ⟨w, hw, h⟩ := bind_ok h
  obtain ⟨hnil, rfl⟩ := close_ok h
  obtain ⟨hw, -⟩ := readWord16_only _ _ _ hw
  rw [hw, hnil, List.append_nil]

theorem parseAbort_only {body : List Byte} {x : Bool} (h : parseAbort body = .ok x) : body = [flagByte x] := by
  obtain ⟨f, hf, h⟩ := bind_ok h
  obtain ⟨hnil, rfl⟩ := close_ok h
  obtain ⟨hf, h2⟩ := readBelow_only _ _ _ _ hf
  rw [hf, hnil]
  generalize f.field = n at h2
  interval_cases n <;> rfl

theorem parseReset_only {body : List Byte} {l : ResetLevel} (h : parseReset body = .ok l) :
    body = [byteOf l.ctorIdx] := by
  obtain ⟨f, hf, h⟩ := bind_ok h
  obtain ⟨hnil, rfl⟩ := close_ok h
  obtain ⟨hf, h2⟩ := readBelow_only _ _ _ _ hf
  rw [hf, hnil]
  generalize f.field = n at h2
  interval_cases n <;> rfl

theorem parseByte_only {body : List Byte} {x : Byte} (h : parseByte body = .ok x) : body = [x] := by
  obtain ⟨b, hb, h⟩ := bind_ok h
  obtain ⟨hnil, rfl⟩ := close_ok h
  obtain ⟨hb, -⟩ := readByte_only _ _ _ hb
  rw [hb, hnil, List.append_nil]

theorem parseEmpty_only {body : List Byte} (h : parseEmpty body = .ok ()) : body = [] := (close_ok h).1

end Sys2Proof.Machine

/-! SUPPORT. The byte that is at fault in a malformed body (R177, R179, R181). -/

namespace Sys2Proof.Machine

/-! ### The byte at fault -/

def Printable (c : Byte) : Prop := 0x20 ≤ c.toNat ∧ c.toNat ≤ 0x7E

/-- The label field that begins `bs` is at fault, at its byte `o`: its length byte, or a character. -/
def TextFault (bs : List Byte) (o : Nat) : Prop :=
  (∃ n r, bs = n :: r ∧ 16 < n.toNat ∧ o = 0)
  ∨ ∃ n cs c r, bs = n :: (cs ++ c :: r) ∧ n.toNat ≤ 16 ∧ cs.length < n.toNat ∧ (∀ b ∈ cs, Printable b)
    ∧ ¬ Printable c ∧ o = cs.length + 1

/-- The reference that begins `bs` is at fault, at its byte `o`: its kind, a label of no length, or its label. -/
def RefFault (bs : List Byte) (o : Nat) : Prop :=
  (∃ k r, bs = k :: r ∧ 6 ≤ k.toNat ∧ o = 0)
  ∨ (∃ r, bs = 0x04#8 :: 0x00#8 :: r ∧ o = 1)
  ∨ ∃ r i, bs = 0x04#8 :: r ∧ TextFault r i ∧ o = i + 1

theorem readBelow_fault {bound : Nat} {b : Byte} (h : bound ≤ b.toNat) (r : List Byte) (o : Nat) :
    readBelow bound (b :: r) o = .error o := if_neg (Nat.not_lt.2 h)

theorem readChars_fault {c : Byte} (hc : ¬ Printable c) (r : List Byte) {cs : List Byte} (hcs : ∀ b ∈ cs, Printable b) :
    ∀ (n o : Nat), cs.length < n → readChars n (cs ++ c :: r) o = .error (o + cs.length) := by
  induction cs with
  | nil =>
    intro n o hn
    obtain ⟨m, rfl⟩ := Nat.exists_eq_succ_of_ne_zero (Nat.ne_of_gt hn)
    exact if_neg hc
  | cons b cs ih =>
    intro n o hn
    obtain ⟨m, rfl⟩ := Nat.exists_eq_succ_of_ne_zero (Nat.ne_of_gt (Nat.zero_lt_of_lt hn))
    obtain ⟨hb, hrest⟩ := List.forall_mem_cons.1 hcs
    have hr := ih hrest m (o + 1) (Nat.lt_of_succ_lt_succ hn)
    refine (if_pos hb).trans ?_
    simp [hr, Nat.add_assoc, Nat.add_comm 1]

theorem readOptLabel_fault {bs : List Byte} {i : Nat} (h : TextFault bs i) (o : Nat) :
    readOptLabel bs o = .error (o + i) := by
  rcases h with ⟨n, r, rfl, h16, rfl⟩ | ⟨n, cs, c, r, rfl, h16, hlen, hcs, hc, rfl⟩
  · have h0 : n.toNat ≠ 0 := by omega
    exact (if_neg h0).trans (if_pos h16)
  · have h0 : n.toNat ≠ 0 := by omega
    have hr := readChars_fault hc r hcs n.toNat (o + 1) hlen
    refine (if_neg h0).trans ((if_neg (Nat.not_lt.2 h16)).trans ?_)
    simp [hr, Nat.add_assoc, Nat.add_comm 1]

theorem readLabel_fault {bs : List Byte} {i : Nat} (h : TextFault bs i) (o : Nat) : readLabel bs o = .error (o + i) := by
  simp only [readLabel, readOptLabel_fault h o]

theorem readRef_fault {bs : List Byte} {i : Nat} (h : RefFault bs i) (o : Nat) : readRef bs o = .error (o + i) := by
  rcases h with ⟨k, r, rfl, h6, rfl⟩ | ⟨r, rfl, rfl⟩ | ⟨r, i, rfl, ht, rfl⟩
  · simp only [readRef, readBelow_fault h6, bind, Except.bind, Nat.add_zero]
  · rfl
  · have hl := readLabel_fault ht (o + 1)
    simp [readRef, readBelow, hl, bind, Except.bind, Nat.add_assoc, Nat.add_comm 1]

theorem parseMove_flagsFault {f : Byte} (h : 4 ≤ f.toNat) (t : Byte) (r : List Byte) :
    parseMove (t :: f :: r) = .error 1 := by
  simp only [parseMove, readByte, readBelow_fault h, bind, Except.bind]

section
variable {f : Byte} (hf : f.toNat < 4) (t : Byte) {bs : List Byte} {o : Nat}
include hf

theorem parseMove_sourceFault (h : RefFault bs o) : parseMove (t :: f :: bs) = .error (2 + o) := by
  simp only [parseMove, readByte, readBelow, if_pos hf, readRef_fault h, bind, Except.bind]

theorem parseMove_destFault {x : Ref} (hx : x.wellFormed = true) (h : RefFault bs o) :
    parseMove (t :: f :: (x.bytes ++ bs)) = .error (2 + x.bytes.length + o) := by
  simp only [parseMove, readByte, readBelow, if_pos hf, readRef_reads hx _ _, readRef_fault h, bind, Except.bind]

theorem parseMove_labelFault {x d : Ref} (hx : x.wellFormed = true) (hd : d.wellFormed = true) (h : TextFault bs o) :
    parseMove (t :: f :: (x.bytes ++ d.bytes ++ bs)) = .error (2 + x.bytes.length + d.bytes.length + o) := by
  simp only [parseMove, readByte, readBelow, if_pos hf, List.append_assoc, readRef_reads hx _ _,
    readRef_reads hd _ _, readOptLabel_fault h, bind, Except.bind]

end

/-! ### O12 -/

theorem be16_ofNat (n : Nat) : be16 (BitVec.ofNat 16 n) = [byteOf (n / 256), byteOf n] := by
  have hi : byteOf (n % 65536 / 256) = byteOf (n / 256) := BitVec.eq_of_toNat_eq (by simp [byteOf]; omega)
  have lo : byteOf (n % 65536) = byteOf n := BitVec.eq_of_toNat_eq (by simp [byteOf])
  rw [be16_eq, BitVec.toNat_ofNat, hi, lo]

/-- How a body ends: a part of it ends too soon, and what follows it is surplus (R177). -/
theorem Spells.ends {β : Type} {p : List Byte → Except Nat β} {whole : List Byte} {b : β} (h : Spells 0 p whole b) :
    (∀ n, n < whole.length → p (whole.take n) = .error n) ∧ ∀ x r, p (whole ++ x :: r) = .error whole.length := by
  refine ⟨fun n hn => ?_, fun x r => ?_⟩
  · rw [h.short n hn, Nat.zero_add]
  · rw [h.long x r, Nat.zero_add]

theorem labelField_none_or (l : Option Label) :
    labelField l = match l with
      | some l => byteOf l.length :: l
      | none => [0x00#8] := by
  cases l <;> rfl

/-- Settles O12. -/
theorem bodiesAreReadAsLaidOut : Obligations.BodiesAreReadAsLaidOut := by
  refine ⟨?layouts, ?move, ?scan, ?tagRef, ?range, ?params, ?ack, ?abort, ?reset, ?byte, ?empty, ?ends, ?faults⟩
  case layouts =>
    refine ⟨fun l => (labelOk_iff l).trans and_assoc, fun n => ⟨rfl, rfl, rfl, rfl, rfl, fun r hr => ?_⟩,
      fun l => ⟨rfl, Iff.rfl⟩, fun b => ⟨?_, ?_⟩, fun b => rfl, fun t r => rfl, fun b => ⟨?_, b.wellFormed_iff⟩,
      fun b => ⟨?_, b.wellFormed_iff⟩, fun l => ?_⟩
    · simp only [List.mem_cons, List.not_mem_nil, or_false] at hr
      rcases hr with rfl | rfl | rfl | rfl | rfl <;> exact decide_eq_true_iff
    · rw [MoveBody.bytes, labelField_none_or]
      cases b.verify <;> cases b.skipLabel <;> rfl
    · rw [b.wellFormed_iff, Option.all_eq_true, and_assoc]
    · rw [RangeBody.bytes]
      cases b.kind <;> rfl
    · rw [ParamBody.bytes]
      simp only [be16_ofNat]
    · cases l <;> rfl
  case move => exact fun body b => ⟨parseMove_only, fun ⟨hb, hw⟩ => hb ▸ (parseMove_spelled hw).read⟩
  case scan => exact fun body b => ⟨parseScan_only, fun hb => hb ▸ (parseScan_spelled b).read⟩
  case tagRef => exact fun body b => ⟨parseTagRef_only, fun ⟨hb, hw⟩ => hb ▸ (parseTagRef_spelled hw).read⟩
  case range => exact fun body b => ⟨parseRange_only, fun ⟨hb, hw⟩ => hb ▸ (parseRange_spelled hw).read⟩
  case params => exact fun body b => ⟨parseParams_only, fun ⟨hb, hw⟩ => hb ▸ (parseParams_spelled hw).read⟩
  case ack => exact fun body n => ⟨parseAck_only, fun hb => hb ▸ (parseAck_spelled n).read⟩
  case abort => exact fun body x => ⟨parseAbort_only, fun hb => hb ▸ (parseAbort_spelled x).read⟩
  case reset => exact fun body l => ⟨parseReset_only, fun hb => hb ▸ (parseReset_spelled l).read⟩
  case byte => exact fun body x => ⟨parseByte_only, fun hb => hb ▸ (parseByte_spelled x).read⟩
  case empty => exact fun body => ⟨parseEmpty_only, fun hb => hb ▸ parseEmpty_spelled.read⟩
  case ends =>
    exact ⟨fun b h => (parseMove_spelled h).ends, fun b => (parseScan_spelled b).ends,
      fun b h => (parseTagRef_spelled h).ends, fun b h => (parseRange_spelled h).ends,
      fun b h => (parseParams_spelled h).ends, fun n => (parseAck_spelled n).ends, fun x => (parseAbort_spelled x).ends,
      fun l => (parseReset_spelled l).ends, fun x => (parseByte_spelled x).ends, parseEmpty_spelled.ends⟩
  case faults =>
    refine ⟨fun t f r h => parseMove_flagsFault h t r, fun t f bs o hf => ⟨parseMove_sourceFault hf t, fun x hx =>
      ⟨parseMove_destFault hf t hx, fun d hd => parseMove_labelFault hf t hx hd⟩⟩, fun t k r h => ?_,
      fun t bs o h => ?_, fun k r h => ?_, fun x r h => ⟨?_, ?_⟩⟩
    · simp only [parseScan, readByte, readBelow_fault h, bind, Except.bind]
    · simp only [parseTagRef, readByte, bind, Except.bind]
      rw [readRef_fault h]
    · simp only [parseRange, readBelow_fault h, bind, Except.bind]
    · simp only [parseAbort, readBelow_fault h, bind, Except.bind]
    · simp only [parseReset, readBelow_fault h, bind, Except.bind]

end Sys2Proof.Machine

/-! SUPPORT. The parameters and the map store (chapters 2 and 10). -/

namespace Sys2Proof.Machine

/-! ### O34 -/

/-- The values out of their ranges, in the order of R165's table. -/
def ParamBody.bad (b : ParamBody) : List Prop :=
  [3 < b.retries, b.threshold < 1 ∨ 8 < b.threshold, b.stageLimit < 500 ∨ 30000 < b.stageLimit,
    b.confirmLimit < 5 ∨ 600 < b.confirmLimit, b.loadLimit < 5 ∨ 300 < b.loadLimit,
    b.ejectLimit < 5 ∨ 300 < b.ejectLimit, b.parkDelay ≠ 0 ∧ (b.parkDelay < 10 ∨ 3600 < b.parkDelay),
    1 < b.autoRelock, b.repeatInterval < 200 ∨ 10000 < b.repeatInterval]

open Classical in
theorem ParamBody.firstBad_eq (b : ParamBody) : b.firstBad = b.bad.findIdx? fun p => decide p := by
  simp only [ParamBody.firstBad, ParamBody.bad, List.findIdx?_cons, List.findIdx?_nil, decide_eq_true_eq]
  split_ifs <;> rfl

theorem ParamBody.firstBad_some {b : ParamBody} {i : Nat} (h : i < b.bad.length) (hi : b.bad[i])
    (hn : ∀ j, (k : j < i) → ¬ (b.bad[j]'(Nat.lt_trans k h))) : b.firstBad = some i := by
  rw [b.firstBad_eq, List.findIdx?_eq_some_iff_getElem]
  exact ⟨h, by simpa using hi, fun j k => by simpa using hn j k⟩

theorem ParamBody.firstBad_none {b : ParamBody} (h : ∀ p ∈ b.bad, ¬ p) : b.firstBad = none := by
  rw [b.firstBad_eq, List.findIdx?_eq_none_iff]
  exact fun p hp => by simpa using h p hp

theorem ParamBody.bytes_carried (b : ParamBody) : b.bytes.length ≤ Config.bodyMax := Nat.le_of_ble_eq_true rfl

/-- Settles O34. -/
theorem setParametersReplaces : Obligations.SetParametersReplaces := by
  unfold Obligations.SetParametersReplaces Completes
  dsimp only [exec]
  refine ⟨fun q s body o h hb hp => State.request_badFormat h _ hb hp, fun q s b h hw => ⟨fun i hi hbad hn => ?_,
    fun hok => ?_⟩⟩
  · refine State.request_answered h _ b.bytes_carried (parseParams_spelled hw).read ?_
    rw [ParamBody.firstBad_some (b := b) hi hbad hn]
  · refine State.request_completes h _ b.bytes_carried (parseParams_spelled hw).read ?_
    rw [ParamBody.firstBad_none (b := b) hok]
    rfl

/-! ### The end of an event that prompts no choice -/

theorem not_movedOn (es : List Entry) : es.any (Entry.movedOn es) = false := by
  rw [List.any_eq_false]
  intro e he
  simp only [Entry.movedOn, Bool.and_eq_true, Bool.not_eq_true', not_and, Bool.not_eq_false]
  exact fun _ => List.any_eq_true.2 ⟨e, he, by simp [Entry.same]⟩

/-- An event that leaves the sequencer, the entries, the bays, the port and the mode causes no choice (R51). -/
theorem State.settle_unprompted {old new : State} (hs : new.seq = old.seq) (hq : new.queue = old.queue)
    (hb : new.bays = old.bays) (hp : new.port = old.port) (hc : new.ctl = old.ctl) :
    State.settle old new = { new with link := new.link.startNext } := by
  have hd : State.choiceDue old new = false := by
    unfold State.choiceDue
    rw [hs, hq, hb, hp, hc]
    simp [not_movedOn]
  unfold State.settle State.choose
  rw [hd]
  rfl

theorem Link.startNext_keeps (l : Link) :
    l.startNext.cache = l.cache ∧ l.startNext.replyPending = l.replyPending ∧ l.startNext.lastSeq = l.lastSeq
      ∧ l.startNext.resetWait = l.resetWait ∧ l.startNext.receiver = l.receiver := by
  obtain ⟨x, r, n, h⟩ := l.startNext_frame
  rw [h]
  exact ⟨rfl, rfl, rfl, rfl, rfl⟩

/-! ### How a commit starts and finishes -/

theorem Store.target_eq (st : Store) : st.target = if st.newest = some .bank0 then .bank1 else .bank0 := by
  unfold Store.target
  cases st.newest with
  | none => rfl
  | some i => cases i <;> rfl

/-- R35, and what the commit leaves as it is. -/
theorem State.startCommit_starts (s : State) :
    ∃ c, s.startCommit.store.commit = some c
      ∧ c.target = (if s.store.newest = some .bank0 then .bank1 else .bank0)
      ∧ c.image = ⟨s.store.newestGen + 1, s.map.base, s.map.grown, s.map.exposed, s.params⟩
      ∧ c.retrying = false ∧ c.earlier = s.store.bank c.target
      ∧ (s.startCommit.store.bank c.target).checkMatches = false
      ∧ (∀ i, i ≠ c.target → s.startCommit.store.bank i = s.store.bank i)
      ∧ s.startCommit = { s with store := s.startCommit.store } := by
  have hbank (b : Bank) (i : BankId) : s.startCommit.store.bank i
      = (s.store.setBank s.store.target { s.store.bank s.store.target with checkMatches := false }).bank i := by
    cases i <;> rfl
  refine ⟨_, rfl, s.store.target_eq, rfl, rfl, rfl, ?_, fun i hi => ?_, rfl⟩
  · rw [hbank Bank.blank, Store.bank_setBank_same]
  · rw [hbank Bank.blank, Store.bank_setBank_ne _ (Ne.symm hi)]

/-- What becomes of the reply that waits in `s`, when the commit in flight ends with status `st` (R37). -/
def AnswersWait (s t : State) (st : Status) : Prop := ∀ w, s.store.wait = some w →
  (w.onPending = true →
    t.store.wait = some { w with onPending := false } ∧ t.link.cache = s.link.cache
      ∧ t.link.replyPending = s.link.replyPending)
  ∧ (w.onPending = false →
    t.store.wait = none ∧ t.link.cache = some (replyFrame w.seq w.kind st []) ∧ t.link.replyPending = false)

theorem State.answerDeferred_none {s : State} (h : s.store.wait = none) (st : Status) : s.answerDeferred st = s := by
  unfold State.answerDeferred
  rw [h]

theorem State.answerDeferred_waits {s : State} {w : ReplyWait} (h : s.store.wait = some w) (hp : w.onPending = true)
    (st : Status) :
    s.answerDeferred st = { s with store := { s.store with wait := some { w with onPending := false } } } := by
  unfold State.answerDeferred
  rw [h]
  exact if_pos hp

theorem State.answerDeferred_sent {s : State} {w : ReplyWait} (h : s.store.wait = some w) (hp : w.onPending = false)
    (st : Status) :
    s.answerDeferred st = { s with store := { s.store with wait := none } }.reply w.seq w.kind st := by
  unfold State.answerDeferred
  rw [h]
  exact if_neg (by simp [hp])

/-- The deferred reply changes the wait and the link alone. -/
theorem State.answerDeferred_answers (s : State) (st : Status) :
    ∃ w l, s.answerDeferred st = { s with store := { s.store with wait := w }, link := l }
      ∧ l.resetWait = s.link.resetWait ∧ AnswersWait s (s.answerDeferred st) st := by
  cases hw : s.store.wait with
  | none =>
    rw [State.answerDeferred_none hw]
    exact ⟨s.store.wait, s.link, rfl, rfl, fun w h => by simp [hw] at h⟩
  | some w =>
    have only {P : ReplyWait → Prop} (h : P w) : ∀ v, s.store.wait = some v → P v := by
      rintro v hv
      obtain rfl := Option.some.inj (hw.symm.trans hv)
      exact h
    cases hp : w.onPending with
    | true =>
      rw [State.answerDeferred_waits hw hp]
      exact ⟨_, s.link, rfl, rfl, only ⟨fun _ => ⟨rfl, rfl, rfl⟩, fun h => by simp [hp] at h⟩⟩
    | false =>
      rw [State.answerDeferred_sent hw hp]
      exact ⟨none, _, rfl, rfl, only ⟨fun h => by simp [hp] at h, fun _ => ⟨rfl, rfl, rfl⟩⟩⟩

/-- A commit that finishes with none pending (R35, R37). -/
theorem State.finishCommit_last {s : State} (hp : s.store.commitPending = false) (st : Status) :
    s.finishCommit st = State.answerDeferred { s with store := { s.store with commit := none } } st := by
  obtain ⟨w, l, h, -, -⟩ := State.answerDeferred_answers { s with store := { s.store with commit := none } } st
  unfold State.finishCommit
  rw [h]
  exact if_neg (by simp [hp])

/-- A commit that finishes with another pending, which starts at once (R35, R37). -/
theorem State.finishCommit_next {s : State} (hp : s.store.commitPending = true) (hr : s.link.resetWait = none)
    (st : Status) :
    ∃ u, s.finishCommit st = u.startCommit
      ∧ (∃ w l, u = { s with store := { s.store with commit := none, commitPending := false, wait := w }, link := l })
      ∧ AnswersWait s u st := by
  obtain ⟨w, l, h, hl, ha⟩ := State.answerDeferred_answers { s with store := { s.store with commit := none } } st
  rw [h] at ha
  refine ⟨{ s with store := { s.store with commit := none, commitPending := false, wait := w }, link := l }, ?_,
    ⟨w, l, rfl⟩, ha⟩
  unfold State.finishCommit
  rw [h]
  exact if_pos (by simp [hp, State.awaitsReload, hl, hr])

/-! ### O35 and O36 -/

theorem State.writeTaken_again {s : State} {c : Commit} (hc : s.store.commit = some c) (hr : c.retrying = false) :
    s.writeTaken false = { s with store := { s.store with commit := some { c with retrying := true } } } := by
  unfold State.writeTaken
  rw [hc]
  simp [hr]

theorem State.writeTaken_succeeds {s : State} {c : Commit} (hc : s.store.commit = some c) :
    s.writeTaken true = s.commitSucceeds c := by
  unfold State.writeTaken
  rw [hc]
  rfl

theorem State.writeTaken_fails {s : State} {c : Commit} (hc : s.store.commit = some c) (hr : c.retrying = true) :
    s.writeTaken false = s.commitFails c := by
  unfold State.writeTaken
  rw [hc]
  simp [hr]

/-- What is asked for does not depend on the store. -/
theorem State.askAttention_store (s : State) (st : Store) (a : Attention) :
    State.askAttention { s with store := st } a = { s.askAttention a with store := st } := by
  unfold State.askAttention
  split <;> rfl

/-- The event of a bank write that leaves everything but the store, the link and the notices. -/
theorem State.bankWrite_ends {s : State} (hp : s.powered = true) {ok : Bool} {st : Store} {l : Link} {n : Notices}
    (h : s.writeTaken ok = { s with store := st, link := l, notices := n }) :
    exec (.bankWriteComplete ok) s = .next { s with store := st, link := l.startNext, notices := n } := by
  dsimp only [exec]
  refine (State.event_powered hp _).trans (congrArg _ ?_)
  rw [h]
  exact State.settle_unprompted rfl rfl rfl rfl rfl

/-- The reply that waits stands in the link as the transmitter leaves it. -/
theorem AnswersWait.startNext {s u t : State} {st : Status} (h : AnswersWait s u st) (hw : t.store.wait = u.store.wait)
    (hl : t.link = u.link.startNext) : AnswersWait s t st := by
  obtain ⟨hc, hr, -⟩ := u.link.startNext_keeps
  unfold AnswersWait
  rw [hw, hl, hc, hr]
  exact h

/-- The store of a commit that has succeeded, before the wait is looked at. -/
def Store.written (st : Store) (c : Commit) : Store :=
  { st.setBank c.target ⟨c.image, true⟩ with
    newest := some c.target, newestGen := c.image.generation, unsaved := false }

theorem Store.written_wait (st : Store) (c : Commit) :
    (st.written c).wait = st.wait ∧ (st.written c).commitPending = st.commitPending
      ∧ (st.written c).bank c.target = ⟨c.image, true⟩ := by
  obtain ⟨-, -, hw, hp⟩ := st.setBank_newest c.target ⟨c.image, true⟩
  refine ⟨hw, hp, ?_⟩
  unfold Store.written
  cases c.target <;> rfl

/-- A commit that has failed asks for STORE_FAULT before it finishes (R36). -/
theorem State.commitFails_asks (s : State) (c : Commit) :
    ∃ n f, s.commitFails c = State.finishCommit
        { s with
          store := { s.store with unsaved := true }, notices := n,
          link := { s.link with noticeFrames := f } } .notStored
      ∧ (s.askAttention (.storeFault c.target c.image.generation)).notices = n := by
  obtain ⟨n, f, h⟩ := s.askAttention_frame (.storeFault c.target c.image.generation)
  refine ⟨n, f, ?_, congrArg State.notices h⟩
  unfold State.commitFails
  rw [State.askAttention_store, h]

/-- Settles O36. -/
theorem bankWriteCompletes : Obligations.BankWriteCompletes := by
  intro s c hp hc hn
  refine ⟨?_, fun hr => ?_, fun hr => ?_⟩
  · obtain ⟨hwait, hpend, hbank⟩ := s.store.written_wait c
    have hu := (State.writeTaken_succeeds hc).trans
      (State.finishCommit_last (s := { s with store := s.store.written c }) (hpend.trans hn) .stored)
    obtain ⟨w, l, hd, -, ha⟩ :=
      State.answerDeferred_answers { s with store := { s.store.written c with commit := none } } .stored
    rw [hd] at hu ha
    refine ⟨_, State.bankWrite_ends hp hu, rfl, rfl, hbank, rfl, rfl, rfl, rfl, fun v hv hon => ?_⟩
    obtain ⟨h1, h2, h3⟩ := (ha.startNext (t := { s with store := _, link := l.startNext }) rfl rfl v (hwait.trans hv)).2 hon
    exact ⟨h2, h3, h1⟩
  · unfold Completes
    dsimp only [exec]
    refine State.event_completes hp ?_
    exact State.writeTaken_again hc hr
  · obtain ⟨n, f, hy, hnotices⟩ := s.commitFails_asks c
    have hu := (State.writeTaken_fails hc hr).trans (hy.trans (State.finishCommit_last (by exact hn) .notStored))
    obtain ⟨w, l, hd, -, ha⟩ := State.answerDeferred_answers
      { s with
        store := { s.store with unsaved := true, commit := none }, notices := n,
        link := { s.link with noticeFrames := f } } .notStored
    rw [hd] at hu ha
    refine ⟨_, State.bankWrite_ends hp hu, rfl, rfl, by cases c.target <;> rfl, rfl, rfl, rfl, rfl, hnotices.symm,
      fun v hv hon => ?_⟩
    obtain ⟨h1, h2, h3⟩ := (ha.startNext (t := { s with store := _, link := l.startNext }) rfl rfl v hv).2 hon
    exact ⟨h2, h3, h1⟩

/-- What follows a commit that finishes with another pending: `i` is the bank the next one writes, `g` its generation. -/
theorem State.startCommit_follows {s u : State} {st : Status} (ha : AnswersWait s u st)
    (hmap : u.map = s.map) (hpar : u.params = s.params) (hpend : u.store.commitPending = false)
    {i : BankId} (hi : (if u.store.newest = some .bank0 then .bank1 else .bank0) = i) :
    let x := u.startCommit
    (x.store.newest = u.store.newest ∧ x.store.newestGen = u.store.newestGen ∧ x.store.unsaved = u.store.unsaved)
      ∧ (x.store.commitPending = false
        ∧ (x.store.bank i).checkMatches = false ∧ ∃ d, x.store.commit = some d ∧ d.target = i
          ∧ d.image = ⟨u.store.newestGen + 1, s.map.base, s.map.grown, s.map.exposed, s.params⟩ ∧ d.retrying = false)
      ∧ AnswersWait s x st := by
  intro x
  obtain ⟨d, hd, ht, himage, hr, -, hm, -⟩ := u.startCommit_starts
  obtain ⟨h1, h2, h3, h4⟩ :=
    u.store.setBank_newest u.store.target { u.store.bank u.store.target with checkMatches := false }
  rw [hmap, hpar] at himage
  rw [hi] at ht
  refine ⟨⟨h1, h2, ?_⟩, ⟨h4.trans hpend, ht ▸ hm, d, hd, ht, himage, hr⟩, ?_⟩
  · show (u.store.setBank _ _).unsaved = _
    cases u.store.target <;> rfl
  · have hw : x.store.wait = u.store.wait := h3
    have hl : x.link = u.link := rfl
    unfold AnswersWait
    rw [hw, hl]
    exact ha

/-- Settles O35. -/
theorem commitsFollowOneAnother : Obligations.CommitsFollowOneAnother := by
  refine ⟨fun s => ⟨fun c hc => ?_, fun hc => ?_⟩, fun s c hp hc hn hl => ⟨?_, fun hr => ?_, fun hr => ?_⟩⟩
  · unfold State.askCommit
    rw [hc]
  · have h : s.askCommit = s.startCommit := by
      unfold State.askCommit
      rw [hc]
    rw [h]
    exact s.startCommit_starts
  · obtain ⟨hwait, hpend, -⟩ := s.store.written_wait c
    obtain ⟨u, hf, ⟨w, l, rfl⟩, ha⟩ :=
      State.finishCommit_next (s := { s with store := s.store.written c }) (hpend.trans hn) hl .stored
    have hu := (State.writeTaken_succeeds hc).trans hf
    have hs : AnswersWait s
        { s with
          store := { s.store.written c with commit := none, commitPending := false, wait := w }, link := l } .stored :=
      fun v hv => ha v (hwait.trans hv)
    obtain ⟨⟨h1, h2, h3⟩, hfollows, hans⟩ := State.startCommit_follows hs rfl rfl rfl
      (i := if c.target = .bank0 then .bank1 else .bank0) (by simp [Store.written])
    exact ⟨_, State.bankWrite_ends hp hu, h1, h2, h3, hfollows, hans.startNext rfl rfl⟩
  · unfold Completes
    dsimp only [exec]
    refine State.event_completes hp ?_
    exact State.writeTaken_again hc hr
  · obtain ⟨n, f, hy, hnotices⟩ := s.commitFails_asks c
    obtain ⟨u, hf, ⟨w, l, rfl⟩, ha⟩ := State.finishCommit_next
      (s := { s with
        store := { s.store with unsaved := true }, notices := n,
        link := { s.link with noticeFrames := f } }) hn hl .notStored
    have hu := (State.writeTaken_fails hc hr).trans (hy.trans hf)
    have hs : AnswersWait s
        { s with
          store := { s.store with unsaved := true, commit := none, commitPending := false, wait := w }, notices := n,
          link := l } .notStored := ha
    obtain ⟨⟨h1, h2, h3⟩, hfollows, hans⟩ := State.startCommit_follows hs rfl rfl rfl rfl
    exact ⟨_, State.bankWrite_ends hp hu, h1, h2, h3, hnotices.symm, hfollows, hans.startNext rfl rfl⟩

end Sys2Proof.Machine

/-! SUPPORT. Failure reports, the drives' timers, the emergency stop and the repeat round (chapters 2, 4, 7, 9, 10). -/

namespace Sys2Proof.Machine

/-! ### O46 -/

/-- A report at a slot that is not retired, `n` its new count (R21, R23). -/
theorem State.reportFailure_slot {s : State} {p : Nat} (hr : s.map.retired p = false) (t : Tag) {n : Nat}
    (hn : min (s.map.faultCount p + 1) s.params.threshold = n) :
    s.reportFailure (some (.slot p)) t =
      let s1 : State := { s with map := { s.map with faults := s.map.faults.set p n } }
      if n < s.params.threshold then s1
      else if s.map.grown.length < 16 then s1.retire p .faults (some t)
      else s1.askAttention (.mapFull p) := by
  subst hn
  exact if_neg (by simp [hr])

theorem State.askCommit_asked (s : State) : s.askCommit.store.commit.isSome = true := by
  unfold State.askCommit
  cases h : s.store.commit with
  | none => rfl
  | some c => simp [h]

/-- A retired slot's count is 0, and its retirement asks for a commit (R24, R26). -/
theorem State.retire_reports (s : State) {p : Nat} (hp : p < s.map.faults.length) (c : RetireCause) (t : Option Tag) :
    (s.retire p c t).map.faultCount p = 0 ∧ (s.retire p c t).store.commit.isSome = true := by
  obtain ⟨y, hy, -⟩ := State.retire_asks (A := True) s p c t
  obtain ⟨st, n, f, h⟩ := s.retire_frame p c t
  refine ⟨?_, by rw [hy]; exact y.askCommit_asked⟩
  rw [h]
  simp [SlotMap.retire, SlotMap.faultCount, hp]

/-- Settles O46. -/
theorem failureReports : Obligations.FailureReports := by
  refine ⟨fun s x t hx => ?_, fun s p t hp => ⟨fun hr => if_pos hr, fun hr hn => ?_, fun g hr hn hg hgrown => ?_,
    fun hr hn hg => ?_⟩⟩
  · unfold State.reportFailure
    split
    · exact absurd rfl (hx _)
    · rfl
  · rw [State.reportFailure_slot hr t (Nat.min_eq_left hn.le)]
    exact if_pos hn
  · have hrep := (State.reportFailure_slot hr t (Nat.min_eq_right hn)).trans
      ((if_neg (Nat.lt_irrefl _)).trans (if_pos hg))
    have hlen : p < (s.map.faults.set p s.params.threshold).length := by simpa using hp
    refine ⟨?_, ?_⟩
    · rw [hrep, State.retire_eq]
      subst hgrown
      have hset : (s.map.faults.set p s.params.threshold).set p 0 = s.map.faults.set p 0 := List.set_set ..
      simp only [SlotMap.retire, hset]
      rfl
    · rw [hrep]
      exact State.retire_reports _ hlen _ _
  · rw [State.reportFailure_slot hr t (Nat.min_eq_right hn)]
    exact (if_neg (Nat.lt_irrefl _)).trans (if_neg (Nat.not_lt.2 hg))

/-! ### O48 -/

theorem State.entry?_of_queue {s t : State} (h : t.queue = s.queue) (x : Tag) : t.entry? x = s.entry? x := by
  unfold State.entry?
  rw [h]

theorem State.settleLoad_waiting {s : State} {t : Tag} {e : Entry} (h : s.entry? t = some e)
    (he : e.state = .waitingDrive .load) (n : Nat) (r : Result) : s.settleLoad n t r = s.entryDone t r := by
  unfold State.settleLoad
  rw [h]
  exact if_pos he

theorem State.settleLoad_running {s : State} {t : Tag} {e : Entry} (h : s.entry? t = some e)
    (he : e.state ≠ .waitingDrive .load) (n : Nat) (r : Result) :
    s.settleLoad n t r = s.modBay n fun b => { b with loadResult := b.loadResult.or (some r) } := by
  unfold State.settleLoad
  rw [h]
  exact if_neg he

theorem State.bayKeeps_entry (s : State) (n : Nat) (st : BayState) (x : Tag) : (s.bayKeeps n st).entry? x = s.entry? x :=
  State.entry?_of_queue (s.bayUpdate_keeps n st _ _).2.1 x

theorem State.leaveLoading_waited {s : State} {n : Nat} {t : Tag} {w : DriveWait} (h : (s.bay n).waiting = some (t, w))
    (st : BayState) (r : Result) : s.leaveLoading n st r = (s.bayKeeps n st).settleLoad n t r := by
  unfold State.leaveLoading
  rw [h]

theorem State.leaveLoading_unwaited {s : State} {n : Nat} (h : (s.bay n).waiting = none) (st : BayState) (r : Result) :
    s.leaveLoading n st r
      = if st = .ejected then (s.bayKeeps n st).askEjected n (s.bay n).eject else s.bayKeeps n st := by
  unfold State.leaveLoading
  rw [h]

/-- Settles O48. -/
theorem driveTimers : Obligations.DriveTimers := by
  intro s i hp
  unfold Completes
  dsimp only [exec]
  refine ⟨fun hl => ⟨fun t w e hw he hs => ?_, fun t w e hw he hs => ?_, fun hw => ?_⟩,
    fun hl => ⟨fun t w hw => ?_, fun hw => ?_⟩⟩
  · refine State.event_completes hp ((if_pos hl).trans ?_)
    rw [State.leaveLoading_waited hw]
    exact State.settleLoad_waiting ((s.bayKeeps_entry _ _ _).trans he) hs _ _
  · refine State.event_completes hp ((if_pos hl).trans ?_)
    rw [State.leaveLoading_waited hw]
    exact State.settleLoad_running ((s.bayKeeps_entry _ _ _).trans he) (by simp [hs]) _ _
  · refine State.event_completes hp ((if_pos hl).trans ?_)
    rw [State.leaveLoading_unwaited hw]
    rfl
  · refine State.event_completes hp ((if_pos hl).trans ?_)
    unfold State.ejectFails
    rw [hw]
    rfl
  · refine State.event_completes hp ((if_pos hl).trans ?_)
    unfold State.ejectFails
    rw [hw]
    rfl

/-! ### O51 -/

theorem State.awaitsReload_iff (s : State) : s.awaitsReload = true ↔ ∃ w, s.link.resetWait = some w ∧ w.reloaded = false := by
  unfold State.awaitsReload
  cases s.link.resetWait <;> simp

theorem State.stopRecorded_iff (s : State) :
    s.stopRecorded = true ↔ s.ctl.mode = .stopped ∨ s.ctl.mode = .faulted ∨ s.awaitsReload = true := by
  simp [State.stopRecorded, or_assoc]

theorem State.stageLocation_idle {s : State} (h : s.running? = none) : s.stageLocation = none := by
  unfold State.stageLocation
  rw [h]
  split
  · rename_i k
    cases k
  · rfl

/-- R158 steps 1 to 4, with no entry holding the picker. -/
theorem State.stop_idle {s : State} (h : s.running? = none) :
    s.stop = (s.halted .stopped .stopLine none).unsettled none := by
  unfold State.stop
  rw [h, State.stageLocation_idle h, State.setMode_haltJob _ _ _ _ (by decide)]
  exact State.unsettle_unsettled _ _

/-- R158 steps 1 to 4, for the entry that holds the picker. -/
theorem State.stop_running {s : State} {j : Job} {e : Entry} (hj : s.seq.job = some j) (he : JobOf s j e) :
    s.stop = State.entryDone (State.endHandOff ((s.halted .stopped .stopLine none).unsettled s.stageLocation)) e.tag .stopped
      (j.audit.map Audit.cut) := by
  unfold State.stop
  rw [State.running_of hj he, State.setMode_haltJob _ _ _ _ (by decide)]
  dsimp only
  rw [State.unsettle_unsettled]
  unfold State.countsNow
  rw [hj]
  rfl

/-- R75 and R159, in the order of O51. -/
theorem State.stageLocation_stopped {s : State} {j : Job} {e : Entry} (hj : s.seq.job = some j) (he : JobOf s j e) :
    s.stageLocation =
      match j.stage with
      | some .pick => e.source
      | some (.retract .pickFault) => e.source
      | some (.retract .pickNone) => e.source
      | some .place => if j.onReturn.isSome then e.source else e.dest
      | some (.retract .placed) => if j.onReturn.isSome then e.source else e.dest
      | some (.retract .placeFault) => if j.onReturn.isSome then e.source else e.dest
      | _ => none := by
  rw [State.stageLocation_of hj he]
  unfold Job.placeAt
  generalize j.stage = stage
  cases stage with
  | none => rfl
  | some st =>
    cases st with
    | retract a => cases a <;> rfl
    | _ => rfl

/-- Settles O51. -/
theorem emergencyStop : Obligations.EmergencyStop := by
  refine ⟨State.awaitsReload_iff, fun s x hp => ?_⟩
  unfold Completes
  dsimp only [exec]
  refine ⟨fun h => ?_, fun hm hf hr => ?_⟩
  · exact State.event_completes hp (if_pos (s.stopRecorded_iff.2 h))
  · have hn : ¬ s.stopRecorded = true := by
      simp [s.stopRecorded_iff, hm, hf, hr]
    refine ⟨fun h => ?_, fun e j hj he => ?_⟩
    · refine State.event_completes hp ((if_neg hn).trans (State.stop_idle ?_))
      exact h
    · refine State.event_completes hp ((if_neg hn).trans ?_)
      refine (State.stop_running (by exact hj) (by exact he)).trans ?_
      exact congrArg (fun y => State.entryDone (State.endHandOff (State.unsettled _ y)) e.tag .stopped _)
        (State.stageLocation_stopped (by exact hj) (by exact he))

/-! ### O52 -/

theorem Link.hand_mem (l : Link) (n : Notice) : n ∈ (l.hand n).noticeFrames := by
  unfold Link.hand
  split
  · rename_i h
    obtain ⟨m, hm, hn⟩ := List.any_eq_true.1 h
    exact List.mem_map.2 ⟨m, hm, if_pos (beq_iff_eq.1 hn)⟩
  · exact List.mem_append_right _ (List.mem_singleton_self n)

theorem Link.hand_keeps {l : Link} {n m : Notice} (hm : m ∈ l.noticeFrames) (hn : m.number ≠ n.number) :
    m ∈ (l.hand n).noticeFrames := by
  unfold Link.hand
  split
  · exact List.mem_map.2 ⟨m, hm, if_neg hn⟩
  · exact List.mem_append_left _ hm

/-- Of notices with numbers of their own, each waits once all have been handed over (R172). -/
theorem hand_all_mem (ns : List Notice) : ∀ l : Link, (ns.map (·.number)).Nodup →
    (∀ m ∈ l.noticeFrames, m.number ∉ ns.map (·.number) → m ∈ (ns.foldl Link.hand l).noticeFrames)
      ∧ ∀ m ∈ ns, m ∈ (ns.foldl Link.hand l).noticeFrames := by
  induction ns with
  | nil => exact fun l _ => ⟨fun m hm _ => hm, by simp⟩
  | cons n ns ih =>
    intro l hd
    rw [List.map_cons, List.nodup_cons] at hd
    obtain ⟨hn, hns⟩ := hd
    obtain ⟨hold, hnew⟩ := ih (l.hand n) hns
    refine ⟨fun m hm hx => ?_, List.forall_mem_cons.2 ⟨hold n (l.hand_mem n) hn, hnew⟩⟩
    rw [List.map_cons, List.mem_cons, not_or] at hx
    exact hold m (Link.hand_keeps hm hx.1) hx.2

/-- A notice that waits still waits, or is being sent, once the transmitter has chosen (R172). -/
theorem Link.startNext_waits {l : Link} {m : Notice} (h : m ∈ l.noticeFrames) :
    m ∈ l.startNext.noticeFrames ∨ l.startNext.sending = some (.notice m) := by
  unfold Link.startNext
  split
  · exact .inl h
  · exact .inl h
  · rename_i n ns _ _ hf
    rw [hf, List.mem_cons] at h
    rcases h with rfl | h
    · exact .inr rfl
    · exact .inl h
  · exact .inl h

/-- Settles O52. -/
theorem repeatRound : Obligations.RepeatRound := by
  intro s hp ht hq hd
  obtain ⟨f, hf⟩ := hand_all_frame (s.notices.queue.map Notice.again) s.link
  have hnum : ((s.notices.queue.map Notice.again).map (·.number)).Nodup := by
    rwa [List.map_map, show ((fun n : Notice => n.number) ∘ Notice.again) = fun n => n.number from rfl]
  have hmem := (hand_all_mem _ s.link hnum).2
  rw [hf] at hmem
  have hround : s.repeatRound =
      { s with
        notices :=
          { s.notices with
            queue := s.notices.queue.map Notice.again, repeatTimer := some s.params.repeatInterval },
        link := { s.link with noticeFrames := f } } := by
    unfold State.repeatRound
    dsimp only
    rw [hf]
    simp [hq]
  have hset : State.settle s (if s.notices.repeatTimer.isSome then s.repeatRound else s) = _ :=
    (congrArg (State.settle s) ((if_pos ht).trans hround)).trans (State.settle_unprompted rfl rfl rfl rfl rfl)
  refine ⟨_, (State.event_powered hp _).trans (congrArg _ hset), rfl, fun m hm => Link.startNext_waits (hmem m hm), rfl,
    fun hs => ?_⟩
  have hkeep := Link.startNext_sending { s.link with noticeFrames := f } hs
  dsimp only
  rw [hkeep]

end Sys2Proof.Machine

/-! SUPPORT. The records of the inventory by location, and the requests that answer, cancel and stop an entry (chapters 1,
4 and 6). -/

namespace Sys2Proof.Machine

/-! ### The record of a location -/

theorem getD_modify_same {α : Type} {f : α → α} {l : List α} {n : Nat} (h : n < l.length) (d : α) :
    (l.modify n f).getD n d = f (l.getD n d) := by
  simp [List.getD_eq_getElem?_getD, h]

theorem getD_modify_ne {α : Type} {f : α → α} (l : List α) {n m : Nat} (h : n ≠ m) (d : α) :
    (l.modify n f).getD m d = l.getD m d := by
  simp [List.getD_eq_getElem?_getD, h]

section
variable (v : Inventory)

@[simp] theorem Inventory.mem_locations_slot (n : Nat) : Loc.slot n ∈ v.locations ↔ n < v.slots.length := by
  simp [Inventory.locations]

@[simp] theorem Inventory.mem_locations_bay (n : Nat) : Loc.bay n ∈ v.locations ↔ n < v.bays.length := by
  simp [Inventory.locations]

@[simp] theorem Inventory.mem_locations_cell (n : Nat) : Loc.cell n ∈ v.locations ↔ n < v.cells.length := by
  simp [Inventory.locations]

@[simp] theorem Inventory.mem_locations_gripper : Loc.gripper ∈ v.locations := by
  simp [Inventory.locations]

@[simp] theorem Inventory.locations_modify (x : Loc) (f : PlaceRec → PlaceRec) :
    (v.modify x f).locations = v.locations := by
  cases x <;> simp [Inventory.modify, Inventory.locations]

theorem Inventory.place_modify_ne {x y : Loc} (h : x ≠ y) (f : PlaceRec → PlaceRec) :
    (v.modify x f).place y = v.place y := by
  cases x with
  | slot n =>
    cases y with
    | slot m => exact getD_modify_ne _ (by simpa using h) _
    | bay m | cell m | gripper => rfl
  | bay n =>
    cases y with
    | bay m => exact getD_modify_ne _ (by simpa using h) _
    | slot m | cell m | gripper => rfl
  | cell n =>
    cases y with
    | cell m => exact getD_modify_ne _ (by simpa using h) _
    | slot m | bay m | gripper => rfl
  | gripper =>
    cases y with
    | gripper => exact absurd rfl h
    | slot m | bay m | cell m => rfl

theorem Inventory.place_modify_same {x : Loc} (h : x ∈ v.locations) (f : PlaceRec → PlaceRec) :
    (v.modify x f).place x = f (v.place x) := by
  cases x with
  | slot n => exact getD_modify_same (v.mem_locations_slot n |>.1 h) _
  | bay n => exact getD_modify_same (v.mem_locations_bay n |>.1 h) _
  | cell n => exact getD_modify_same (v.mem_locations_cell n |>.1 h) _
  | gripper => rfl

/-- A location outside the location set has no record to change. -/
theorem Inventory.modify_outside {x : Loc} (h : x ∉ v.locations) (f : PlaceRec → PlaceRec) : v.modify x f = v := by
  cases x with
  | slot n => simp [Inventory.modify, List.modify_eq_self (Nat.not_lt.1 (fun k => h ((v.mem_locations_slot n).2 k)))]
  | bay n => simp [Inventory.modify, List.modify_eq_self (Nat.not_lt.1 (fun k => h ((v.mem_locations_bay n).2 k)))]
  | cell n => simp [Inventory.modify, List.modify_eq_self (Nat.not_lt.1 (fun k => h ((v.mem_locations_cell n).2 k)))]
  | gripper => exact absurd v.mem_locations_gripper h

/-- What an entry's claims leave at a location (R9). -/
theorem Inventory.release_cons (x : Loc) (xs : List Loc) (t : Tag) :
    v.release (x :: xs) t = (v.modify x fun p => { p with claims := p.claims.filter (· != t) }).release xs t := rfl

@[simp] theorem Inventory.locations_release (xs : List Loc) (t : Tag) : (v.release xs t).locations = v.locations := by
  induction xs generalizing v with
  | nil => rfl
  | cons x xs ih => rw [Inventory.release_cons, ih, Inventory.locations_modify]

theorem Inventory.place_release_ne {xs : List Loc} {y : Loc} (h : y ∉ xs) (t : Tag) :
    (v.release xs t).place y = v.place y := by
  induction xs generalizing v with
  | nil => rfl
  | cons x xs ih =>
    rw [List.mem_cons, not_or] at h
    rw [Inventory.release_cons, ih _ h.2, Inventory.place_modify_ne _ (Ne.symm h.1)]

theorem Inventory.place_outside {x : Loc} (h : x ∉ v.locations) : v.place x = PlaceRec.notKnown := by
  cases x with
  | slot n => exact List.getD_eq_default _ _ (Nat.not_lt.1 fun k => h ((v.mem_locations_slot n).2 k))
  | bay n => exact List.getD_eq_default _ _ (Nat.not_lt.1 fun k => h ((v.mem_locations_bay n).2 k))
  | cell n => exact List.getD_eq_default _ _ (Nat.not_lt.1 fun k => h ((v.mem_locations_cell n).2 k))
  | gripper => exact absurd v.mem_locations_gripper h

/-- A location gives up its claim, whether or not it is in the location set: one outside has none. -/
theorem Inventory.place_release_one (x : Loc) (t : Tag) :
    (v.release [x] t).place x = { v.place x with claims := (v.place x).claims.filter (· != t) } := by
  rw [Inventory.release_cons]
  by_cases h : x ∈ v.locations
  · exact v.place_modify_same h _
  · rw [Inventory.modify_outside _ h]
    show v.place x = _
    rw [Inventory.place_outside _ h]
    rfl

theorem Inventory.claims_release {xs : List Loc} {x : Loc} (h : x ∈ xs) (t : Tag) :
    ((v.release xs t).place x).claims = (v.place x).claims.filter (· != t) := by
  induction xs generalizing v with
  | nil => cases h
  | cons y xs ih =>
    rw [Inventory.release_cons]
    have first : ((v.modify x fun p => { p with claims := p.claims.filter (· != t) }).place x).claims
        = (v.place x).claims.filter (· != t) := congrArg PlaceRec.claims (v.place_release_one x t)
    by_cases hx : x ∈ xs
    · rw [ih _ hx]
      by_cases hy : y = x
      · subst hy
        rw [first, List.filter_filter]
        simp
      · rw [Inventory.place_modify_ne _ hy]
    · obtain rfl : x = y := (List.mem_cons.1 h).resolve_right hx
      rw [Inventory.place_release_ne _ hx, first]

end

end Sys2Proof.Machine

/-! SUPPORT. The requests that acknowledge notices and that answer, cancel and stop an entry (chapters 4, 6 and 9). -/

namespace Sys2Proof.Machine

/-! ### O29 -/

theorem be16_carried (n : Word16) : (be16 n).length ≤ Config.bodyMax := Nat.le_of_ble_eq_true rfl

theorem State.enterNotice_params (s : State) (b : NoticeBody) : (s.enterNotice b).params = s.params := by
  obtain ⟨n, l, q, c, h⟩ := s.enterNotice_frame b
  rw [h]

theorem State.refill_params (bs : List NoticeBody) : ∀ s : State, (State.refill bs s).params = s.params := by
  induction bs with
  | nil => exact fun _ => rfl
  | cons b bs ih =>
    intro s
    unfold State.refill
    split
    · rw [ih, State.enterNotice_params]
    · rfl

theorem State.enterSummary_params (s : State) : s.enterSummary.params = s.params := by
  unfold State.enterSummary
  split
  · rw [State.enterNotice_params]
  · rfl

/-- R144 step 4, in terms of an earlier state's parameters. -/
theorem State.restartRepeat_of {s b : State} (h : b.params = s.params) :
    b.restartRepeat =
      { b with
        notices :=
          { b.notices with
            repeatTimer := if b.notices.queue.isEmpty then none else some s.params.repeatInterval } } := by
  rw [← h]
  rfl

/-- Settles O29. -/
theorem noticeAckRemoves : Obligations.NoticeAckRemoves := by
  intro q s n h
  unfold Completes
  dsimp only [exec]
  refine ⟨fun body o hb hp => State.request_badFormat h _ hb hp, fun hn => ?_, fun i hi => ?_⟩
  · refine State.request_answered h _ (be16_carried n) (parseAck_spelled n).read ?_
    unfold State.acknowledge
    rw [show (s.accepted q).notices.queue.findIdx? _ = none from hn]
  · refine State.request_completes h _ (be16_carried n) (parseAck_spelled n).read ?_
    have hlen : (s.notices.queue.take (i + 1)).length = i + 1 := by
      obtain ⟨hlt, -⟩ := List.findIdx?_eq_some_iff_getElem.1 hi
      simp
      omega
    unfold State.acknowledge
    rw [show (s.accepted q).notices.queue.findIdx? _ = some i from hi]
    unfold State.removeNotices State.ok
    dsimp only [State.accepted_notices]
    rw [hlen]
    exact State.restartRepeat_of ((State.enterSummary_params _).trans (State.refill_params _ _))

/-! ### O20 -/

theorem Entry.cancellable_iff (e : Entry) :
    e.cancellable = true ↔ e.state = .queued ∨ e.state = .waitingPort ∨ e.state = .waitingDrive .eject := by
  simp [Entry.cancellable, or_assoc]

/-- Settles O20. -/
theorem cancelByState : Obligations.CancelByState := by
  intro q s t h
  unfold Completes
  dsimp only [exec]
  refine ⟨fun body o hb hp => State.request_badFormat h _ hb hp, fun hn => ?_, fun e he hs => ?_, fun e he hs => ?_⟩
  · refine State.byte_answered h _ ?_
    rw [show (s.accepted q).entry? t = none from hn]
  · refine State.byte_completes h _ ?_
    rw [show (s.accepted q).entry? t = some e from he]
    exact if_pos (e.cancellable_iff.2 hs)
  · refine State.byte_answered h _ ?_
    rw [show (s.accepted q).entry? t = some e from he]
    refine if_neg (fun hc => ?_)
    rw [e.cancellable_iff] at hc
    rcases hs with hs | hs | hs | hs <;> simp [hs] at hc

/-! ### O19 -/

theorem State.awaiting_none {s : State} {t : Tag} (h : s.entry? t = none) : s.awaiting t = .error .noSuchTag := by
  unfold State.awaiting
  rw [h]

theorem State.awaiting_other {s : State} {t : Tag} {e : Entry} (h : s.entry? t = some e) (he : e.state ≠ .awaitingConfirm) :
    s.awaiting t = .error .notAwaiting := by
  unfold State.awaiting
  rw [h]
  exact if_neg he

theorem State.awaiting_confirm {s : State} {t : Tag} {e : Entry} (h : s.entry? t = some e) (he : e.state = .awaitingConfirm) :
    s.awaiting t = .ok e := by
  unfold State.awaiting
  rw [h]
  exact if_pos he

theorem State.entry?_tag {s : State} {t : Tag} {e : Entry} (h : s.entry? t = some e) : e.tag = t := by
  have := List.find?_some h
  simpa using this

theorem State.entry?_mem {s : State} {t : Tag} {e : Entry} (h : s.entry? t = some e) : e ∈ s.queue.entries :=
  List.mem_of_find?_eq_some h

/-- The home test by the kind of the source (R81). -/
theorem State.homeTest_iff (s : State) (e : Entry) :
    (∀ p, e.source = some (.slot p) → (s.homeTest e = true ↔ s.map.retired p = false))
      ∧ (∀ p, e.source = some (.cell p) → (s.homeTest e = true ↔ s.port.state = .secured))
      ∧ ∀ n, e.source = some (.bay n) → (s.homeTest e = true ↔ (s.bay n).state = .empty) := by
  refine ⟨fun p h => ?_, fun p h => ?_, fun n h => ?_⟩ <;> simp [State.homeTest, h]

section
variable {s : State} {j : Job} {e : Entry} (hj : s.seq.job = some j) (he : JobOf s j e) {c : Cause}
include hj he

/-- The hand-off ends and the cartridge is taken home (R81, R95). -/
theorem State.handOff_home (hc : ∀ i, c.pendingAfter i = i) (hh : s.homeTest e = true) :
    s.endHandOff.callReturn e c =
      State.ordered
        { s.endHandOff with
          queue :=
            { s.queue with
              entries := s.queue.entries.map fun x => if x.tag = e.tag then { x with state := .running } else x } }
        { j with onReturn := some c, stage := some (.travel .source) } .busy .travel e.source := by
  rw [State.callReturn_sentHome (s := s.endHandOff) hj he, hc]
  exact if_pos hh

/-- The hand-off ends where the source is no home (R82, R95). -/
theorem State.handOff_givenUp (hh : s.homeTest e = false) :
    s.endHandOff.callReturn e c =
      let b := s.endHandOff.entryDone e.tag c.noHome
      State.setMode { b with ctl := { b.ctl with ret := s.ctl.mode.recorded } } .holding .noHome (some e.tag) := by
  rw [State.callReturn_sentHome (s := s.endHandOff) hj he]
  exact if_neg (Bool.eq_false_iff.1 hh)

end

theorem State.confirmExpiry {s : State} {e : Entry} (hc : s.seq.confirmTimer.isSome = true) (he : s.running? = some e) :
    (match s.seq.confirmTimer, s.running? with
      | some _, some e => s.endHandOff.callReturn e .confirmTimeout
      | _, _ => s) = s.endHandOff.callReturn e .confirmTimeout := by
  obtain ⟨k, hk⟩ := Option.isSome_iff_exists.1 hc
  rw [hk, he]

/-- Settles O19. -/
theorem returnAndExpiryGoHome : Obligations.ReturnAndExpiryGoHome := by
  unfold Obligations.ReturnAndExpiryGoHome Completes
  dsimp only [exec]
  refine ⟨State.homeTest_iff, fun q s h => ⟨fun body o hb hp => State.request_badFormat h _ hb hp, fun t hn => ?_,
    fun t e he hs => ?_⟩, ?_⟩
  · refine State.byte_answered h _ ?_
    rw [State.awaiting_none (by exact hn)]
  · refine State.byte_answered h _ ?_
    rw [State.awaiting_other (by exact he) hs]
  intro s t e j he hs hj hk
  obtain rfl := State.entry?_tag he
  have jobOf : JobOf s j e := ⟨hk, he⟩
  refine ⟨fun q h => ⟨fun hh => ?_, fun hh => ?_⟩, fun hp hc => ⟨fun hh => ?_, fun hh => ?_⟩⟩
  · refine State.byte_completes h _ ?_
    rw [State.awaiting_confirm (by exact he) hs]
    exact congrArg (fun v => State.ok v q 0x0B#8) (State.handOff_home (by exact hj) (by exact jobOf) (fun _ => rfl) hh)
  · refine State.byte_completes h _ ?_
    rw [State.awaiting_confirm (by exact he) hs]
    exact congrArg (fun v => State.ok v q 0x0B#8) (State.handOff_givenUp (by exact hj) (by exact jobOf) hh)
  · refine State.event_completes hp ((State.confirmExpiry hc (State.running_of hj jobOf)).trans ?_)
    exact State.handOff_home hj jobOf (fun _ => rfl) hh
  · refine State.event_completes hp ((State.confirmExpiry hc (State.running_of hj jobOf)).trans ?_)
    exact State.handOff_givenUp hj jobOf hh

end Sys2Proof.Machine

/-! SUPPORT. CONFIRM, DIVERT and ABORT_ALL (chapters 4 and 6). -/

namespace Sys2Proof.Machine

/-! ### O18 -/

theorem State.tryDivert_awaits {s : State} {t : Tag} {st : Status} (h : s.awaiting t = .error st) (r : Ref) :
    s.tryDivert (t, r) = .error st := by
  unfold State.tryDivert
  rw [h]
  rfl

/-- The checks of a DIVERT that names an entry AWAITING_CONFIRM, in their order (R93). -/
theorem State.tryDivert_refusal {s : State} {t : Tag} {e : Entry} (h : s.awaiting t = .ok e) (r : Ref) :
    refusal? (s.tryDivert (t, r))
      = match s.resolve .divertDest r with
        | .error x => some x
        | .ok d =>
          if d.isCell = true ∧ s.port.state ≠ .secured then some .portState
          else if some d = e.source then some .sameLocation
          else match s.destRefusal d with
            | some x => some x
            | none =>
              if (s.inv.place d).occ ≠ .empty then some .destinationFull
              else if (s.inv.place d).claims ≠ [] then some .divertClaimed
              else none := by
  unfold State.tryDivert
  rw [h]
  simp only [refusal?_ok_bind]
  rcases s.resolve .divertDest r with x | d
  · rfl
  simp only [refusal?_ok_bind, refusal?_check_bind, ite_refusal_or, Option.none_or, refusal?_pure, Option.or_none,
    Bool.and_eq_true, bne_iff_ne]
  rcases s.destRefusal d with _ | x
  · by_cases hocc : (s.inv.place d).occ = .empty <;> simp [hocc]
  · rfl

/-- A DIVERT that no check refuses answers its entry and the location its reference names. -/
theorem State.tryDivert_ok {s : State} {t : Tag} {e : Entry} {r : Ref} {d : Loc} (h : s.awaiting t = .ok e)
    (hd : s.resolve .divertDest r = .ok d) (hr : refusal? (s.tryDivert (t, r)) = none) :
    s.tryDivert (t, r) = .ok (e, d) := by
  cases hx : s.tryDivert (t, r) with
  | error x => simp [hx, refusal?] at hr
  | ok x =>
    unfold State.tryDivert at hx
    rw [h] at hx
    obtain ⟨e', he, hx⟩ := bind_ok hx
    cases he
    obtain ⟨d', hd', hx⟩ := bind_ok hx
    rw [hd] at hd'
    cases hd'
    obtain ⟨_, -, hx⟩ := bind_ok hx
    obtain ⟨_, -, hx⟩ := bind_ok hx
    obtain ⟨_, -, hx⟩ := bind_ok hx
    obtain ⟨_, -, hx⟩ := bind_ok hx
    obtain ⟨_, -, hx⟩ := bind_ok hx
    exact congrArg _ (Except.ok.inj hx).symm

/-- The hand-off ends and TRAVEL to the destination is sent (R92, R94). -/
theorem State.carryOn_ordered {s : State} {j : Job} {e : Entry} (hj : s.seq.job = some j) (he : JobOf s j e) :
    s.carryOn e.tag =
      State.ordered
        { s.endHandOff with
          queue :=
            { s.queue with
              entries := s.queue.entries.map fun x => if x.tag = e.tag then { x with state := .running } else x } }
        { j with stage := some (.travel .dest) } .busy .travel e.dest := by
  have he' := State.jobOf_modEntry (v := s.endHandOff) he (fun x => { x with state := .running }) fun _ => rfl
  exact (State.beginStage_entryTravel (by exact hj) he').2

/-- The claims that move with a DIVERT's destination (R9, R94). -/
theorem Inventory.diverted (v : Inventory) (o : Option Loc) (d : Loc) (t : Tag) (hc : (v.place d).claims = []) :
    let w := (v.release o.toList t).claim [d] t
    w.locations = v.locations
      ∧ (d ∈ v.locations → w.place d = { v.place d with claims := [t] })
      ∧ ∀ x, x ≠ d →
        w.place x = if o = some x then { v.place x with claims := (v.place x).claims.filter (· != t) } else v.place x := by
  have hrelease (x : Loc) : (v.release o.toList t).place x
      = if o = some x then { v.place x with claims := (v.place x).claims.filter (· != t) } else v.place x := by
    cases o with
    | none => rfl
    | some y =>
      by_cases hy : y = x
      · subst hy
        rw [if_pos rfl]
        exact v.place_release_one y t
      · rw [if_neg (by simpa using hy)]
        exact v.place_release_ne (by simpa using Ne.symm hy) t
  have hd : (v.release o.toList t).place d = v.place d := by
    rw [hrelease d]
    split
    · rw [hc]
      exact congrArg (fun c => ({ v.place d with claims := c } : PlaceRec)) hc.symm
    · rfl
  refine ⟨?_, fun hmem => ?_, fun x hx => ?_⟩
  · exact (Inventory.locations_modify _ _ _).trans (v.locations_release _ _)
  · refine (Inventory.place_modify_same _ (by rwa [Inventory.locations_release]) _).trans ?_
    rw [hd, hc]
    rfl
  · exact (Inventory.place_modify_ne _ (Ne.symm hx) _).trans (hrelease x)

/-- Settles O18. -/
theorem confirmAndDivertCarryOn : Obligations.ConfirmAndDivertCarryOn := by
  unfold Obligations.ConfirmAndDivertCarryOn Completes
  dsimp only [exec]
  refine ⟨fun q s h => ⟨fun body o hb => ⟨fun hp => State.request_badFormat h _ hb hp, fun hp =>
    State.request_badFormat h _ hb hp⟩, fun t st hst => ?_, fun t e r st he hs hw hst => ?_⟩, ?_⟩
  · have ha : s.awaiting t = .error st := by
      cases he : s.entry? t with
      | none =>
        rw [he] at hst
        exact Option.some.inj hst ▸ State.awaiting_none he
      | some e =>
        rw [he] at hst
        by_cases hs : e.state = .awaitingConfirm
        · simp [hs] at hst
        · rw [← Option.some.inj ((if_neg hs).symm.trans hst)]
          exact State.awaiting_other he hs
    refine ⟨State.byte_answered h _ ?_, fun r hw => ?_⟩
    · rw [show (s.accepted q).awaiting t = .error st from ha]
    · refine State.request_answered h _ (tagRefBytes_length t hw) (parseTagRef_bytes t hw) ?_
      rw [State.tryDivert_awaits (by exact ha)]
  · refine State.request_answered h _ (tagRefBytes_length t hw) (parseTagRef_bytes t hw) ?_
    have href := (State.tryDivert_refusal (State.awaiting_confirm he hs) r).trans hst
    rw [show (s.accepted q).tryDivert (t, r) = .error st from refusal?_eq_some.1 href]
  intro q s t e j h he hs hj hk
  obtain rfl := State.entry?_tag he
  have jobOf : JobOf s j e := ⟨hk, he⟩
  refine ⟨State.byte_completes h _ ?_, fun r d hw hd hcell hsame hdest hocc hclaims => ⟨?_, ?_⟩⟩
  · rw [State.awaiting_confirm (by exact he) hs]
    exact congrArg (fun v => State.ok v q 0x09#8) (State.carryOn_ordered (by exact hj) (by exact jobOf))
  · exact s.inv.diverted e.dest d e.tag hclaims
  · refine State.request_completes h _ (tagRefBytes_length e.tag hw) (parseTagRef_bytes e.tag hw) ?_
    have hnone : refusal? (s.tryDivert (e.tag, r)) = none := by
      rw [State.tryDivert_refusal (State.awaiting_confirm he hs) r, hd]
      simp [hsame, hdest, hocc, hclaims]
      simpa using hcell
    rw [show (s.accepted q).tryDivert (e.tag, r) = .ok (e, d) from
      State.tryDivert_ok (State.awaiting_confirm he hs) hd hnone]
    have hmap (x : Entry) : (fun x : Entry => if x.tag = e.tag then { x with state := .running } else x)
        (if x.tag = e.tag then { x with dest := some d } else x)
          = if x.tag = e.tag then { x with dest := some d, state := .running } else x := by
      by_cases hx : x.tag = e.tag <;> simp [hx]
    refine congrArg (fun v => State.ok v q 0x0A#8) ?_
    refine (State.carryOn_ordered (by exact hj) (e := { e with dest := some d }) ?_).trans ?_
    · exact State.jobOf_modEntry (v := { s.accepted q with inv := _ }) jobOf (fun x => { x with dest := some d }) fun _ => rfl
    · have hentries : (State.divert (s.accepted q) e d).queue.entries.map
          (fun x => if x.tag = e.tag then { x with state := .running } else x)
            = s.queue.entries.map fun x =>
              if x.tag = e.tag then { x with dest := some d, state := .running } else x := by
        unfold State.divert State.modEntry
        rw [List.map_map]
        exact congrArg (fun f => s.queue.entries.map f) (funext hmap)
      dsimp only
      rw [hentries]
      rfl

end Sys2Proof.Machine

/-! SUPPORT. What an entry's end leaves (R39, R47, R109, R149). -/

namespace Sys2Proof.Machine

/-! ### The live entry of a tag -/

/-- Entries changed one by one, their tags kept, are found as they were. -/
theorem State.entry?_map {s u : State} {f : Entry → Entry} (hf : ∀ e, (f e).tag = e.tag)
    (h : u.queue.entries = s.queue.entries.map f) (x : Tag) : u.entry? x = (s.entry? x).map f := by
  unfold State.entry?
  rw [h, List.find?_map]
  congr 2
  funext e
  simp [hf]

theorem noticeIn_tag (t : Tag) (e : Entry) : (if e.tag = t then { e with noticeQueued := true } else e).tag = e.tag := by
  split <;> rfl

/-! ### A completion asked for -/

/-- A completion that enters marks its entry, and no more of the queue; it leaves the confirm timer. -/
theorem State.enterCompletion {b : NoticeBody} {t : Tag} (hb : b.completes = some t) (s : State) :
    ∃ n f, s.enterNotice b =
      { s with notices := n, link := { s.link with noticeFrames := f }, queue := s.queue.noticeIn t } := by
  obtain ⟨f, hf⟩ := s.link.hand_frame ⟨s.notices.next, 1, b⟩
  cases b <;> cases hb
  all_goals exact ⟨_, f, by rw [← hf]; rfl⟩

theorem State.askCompletion {b : NoticeBody} {t : Tag} (hb : b.completes = some t) (s : State) :
    ∃ n f q, s.askNotice b = { s with notices := n, link := { s.link with noticeFrames := f }, queue := q }
      ∧ (q = s.queue ∨ q = s.queue.noticeIn t) := by
  unfold State.askNotice
  split
  · obtain ⟨n, f, h⟩ := State.enterCompletion hb s
    exact ⟨n, f, _, h, .inr rfl⟩
  · exact ⟨_, s.link.noticeFrames, s.queue, rfl, .inl rfl⟩

/-- A notice asked for enters exactly when nothing waits and a place is free (R145). -/
theorem State.askNotice_notices (s : State) (b : NoticeBody) :
    (s.notices.admission = [] ∧ s.notices.queue.length < 24
        ∧ (s.askNotice b).notices.queue = s.notices.queue ++ [⟨s.notices.next, 1, b⟩]
        ∧ (s.askNotice b).notices.admission = [])
      ∨ (¬ (s.notices.admission = [] ∧ s.notices.queue.length < 24)
        ∧ (s.askNotice b).notices.queue = s.notices.queue
        ∧ (s.askNotice b).notices.admission = s.notices.admission ++ [b]) := by
  have hc : (s.notices.admission.isEmpty && s.notices.hasPlace) = true
      ↔ s.notices.admission = [] ∧ s.notices.queue.length < 24 := by
    rw [Bool.and_eq_true, List.isEmpty_iff, hasPlace_iff]
  by_cases h : s.notices.admission = [] ∧ s.notices.queue.length < 24
  · have hask : s.askNotice b = s.enterNotice b := if_pos (hc.2 h)
    refine .inl ⟨h.1, h.2, ?_, ?_⟩ <;> rw [hask, State.enterNotice_notices]
    exact h.1
  · have hask : s.askNotice b = { s with notices := { s.notices with admission := s.notices.admission ++ [b] } } :=
      if_neg fun k => h (hc.1 k)
    refine .inr ⟨h, ?_, ?_⟩ <;> rw [hask]

/-! ### An entry's end -/

/-- The entry's end but for its completion notice (R47, R109). -/
def State.ended (s : State) (t : Tag) (r : Result) (c : Option ScanCounts) (e : Entry) : State :=
  { s.modEntry t (Entry.finish r c) with
    inv := s.inv.release e.names t,
    bays := s.bays.map (Bay.forget t),
    seq := if s.seq.runs t then s.seq.endJob else s.seq }

theorem Inventory.gripper_release (v : Inventory) (xs : List Loc) (t : Tag) :
    (v.release xs t).gripper.holds = v.gripper.holds := by
  have h := congrArg (fun w : Inventory => w.gripper.holds) (Inventory.contents_release t xs v)
  exact h

/-- The completion notice shows the entry as it stands in DONE and the locations as they stand before its end. -/
theorem State.completion_ended (s : State) (t : Tag) (r : Result) (c : Option ScanCounts) (e : Entry) :
    (s.ended t r c e).completion (e.finish r c) r = s.completion (e.finish r c) r := by
  have hlabel : (s.ended t r c e).completionLabel (e.finish r c) = s.completionLabel (e.finish r c) := by
    unfold State.completionLabel
    rw [show (s.ended t r c e).inv.gripper.holds = s.inv.gripper.holds from s.inv.gripper_release _ _]
  have hview : (s.ended t r c e).view = s.view := rfl
  unfold State.completion
  rw [hlabel, hview]

theorem State.entryDone_none {s : State} {t : Tag} (h : s.entry? t = none) (r : Result) (c : Option ScanCounts) :
    s.entryDone t r c = s := by
  unfold State.entryDone
  rw [h]

theorem State.entryDone_some {s : State} {t : Tag} {e : Entry} (h : s.entry? t = some e) (r : Result)
    (c : Option ScanCounts) :
    s.entryDone t r c = (s.ended t r c e).askNotice (s.completion (e.finish r c) r) := by
  rw [← s.completion_ended t]
  unfold State.entryDone
  rw [h]
  rfl

theorem State.completion_completes (s : State) (e : Entry) (r : Result) : (s.completion e r).completes = some e.tag := by
  unfold State.completion
  split <;> rfl

theorem State.completion_plain (s : State) {e : Entry} (h : e.kind ≠ .scan) (r : Result) :
    s.completion e r = .completionMove e.tag e.kind e.accNumber r (e.source.map s.view) (e.dest.map s.view)
      (match e.placed with
        | some l => l
        | none => if e.held = true then s.inv.gripper.holds else none)
      e.expected := by
  unfold State.completion
  split
  · rename_i hk _ _
    exact absurd hk h
  · rfl

theorem State.completion_scan (s : State) {e : Entry} {g : ScanRange} {k : ScanCounts} (h : e.kind = .scan)
    (hg : e.scan = some g) (hk : e.counts = some k) (r : Result) :
    s.completion e r = .completionScan e.tag e.accNumber r g.kind g.first g.last k.audited k.occupied k.changed
      (k.firstNot.map s.view) := by
  unfold State.completion
  rw [h, hg, hk]

/-- What an entry's end leaves, with its notice: the end itself, but for the notices and the notice state of its own
entry. -/
theorem State.entryDone_ended {s : State} {t : Tag} {e : Entry} (h : s.entry? t = some e) (r : Result)
    (c : Option ScanCounts) :
    ∃ n f q, s.entryDone t r c
        = { s.ended t r c e with notices := n, link := { s.link with noticeFrames := f }, queue := q }
      ∧ (q = (s.ended t r c e).queue ∨ q = (s.ended t r c e).queue.noticeIn t) := by
  rw [State.entryDone_some h]
  have htag : e.tag = t := State.entry?_tag h
  have hb : (s.completion (e.finish r c) r).completes = some t :=
    (s.completion_completes _ _).trans (congrArg some htag)
  exact State.askCompletion hb _

/-- The entries after an entry's end: those of other tags are as they were. -/
theorem State.entryDone_entries {s : State} {t : Tag} {e : Entry} (h : s.entry? t = some e) (r : Result)
    (c : Option ScanCounts) :
    ∃ f : Entry → Entry, (s.entryDone t r c).queue.entries = s.queue.entries.map f ∧ (∀ x, (f x).tag = x.tag)
      ∧ (∀ x, x.tag ≠ t → f x = x)
      ∧ ∀ x, x.tag = t → f x = x.finish r c ∨ f x = { x.finish r c with noticeQueued := true } := by
  obtain ⟨n, l, q, hd, hq⟩ := State.entryDone_ended h r c
  have hentries : (s.entryDone t r c).queue.entries = q.entries := by rw [hd]
  rw [hentries]
  have htag (x : Entry) : (if x.tag = t then x.finish r c else x).tag = x.tag := by
    split <;> rfl
  rcases hq with rfl | rfl
  · exact ⟨fun x => if x.tag = t then x.finish r c else x, rfl, htag, fun x hx => if_neg hx, fun x hx => .inl (if_pos hx)⟩
  · refine ⟨fun x => if x.tag = t then { x.finish r c with noticeQueued := true } else x, ?_, fun x => ?_,
      fun x hx => if_neg hx, fun x hx => .inr (if_pos hx)⟩
    · unfold Queue.noticeIn State.ended State.modEntry
      rw [List.map_map]
      refine congrArg (fun f => s.queue.entries.map f) (funext fun x => ?_)
      by_cases hx : x.tag = t
      · simp [hx, Entry.finish]
      · simp [hx]
    · dsimp only
      split <;> rfl

theorem Bay.forget_eq (t : Tag) (b : Bay) :
    b.forget t = if b.waiting.map (·.1) = some t then { b with waiting := none, loadResult := none } else b := by
  unfold Bay.forget
  cases b.waiting <;> simp

theorem getD_map {α β : Type} (f : α → β) (l : List α) (n : Nat) (d : α) : (l.map f).getD n (f d) = f (l.getD n d) := by
  rw [List.getD_eq_getElem?_getD, List.getD_eq_getElem?_getD, List.getElem?_map]
  cases l[n]? <;> rfl

/-- Settles O22. -/
theorem entryReachesDone : Obligations.EntryReachesDone := by
  refine ⟨fun s => ⟨fun t => rfl, fun e => ?_, fun p => rfl, fun x hx => ?_, fun t r c h => State.entryDone_none h r c⟩,
    fun s t r c e h => ?_⟩
  · unfold Entry.names
    cases e.scan <;> rfl
  · unfold State.view
    cases x with
    | slot p => exact absurd rfl (hx p)
    | bay n | cell n | gripper => rfl
  obtain ⟨n, l, q, hd, -⟩ := State.entryDone_ended h r c
  have hinv : (s.entryDone t r c).inv = s.inv.release e.names t := by rw [hd]; rfl
  have hbays : (s.entryDone t r c).bays = s.bays.map (Bay.forget t) := by rw [hd]; rfl
  have hseq : (s.entryDone t r c).seq = if s.seq.runs t then s.seq.endJob else s.seq := by rw [hd]; rfl
  refine ⟨?_, fun x hx => ?_, fun x hx => ?_, fun j hj hk => ?_, fun hj => ?_, fun m => ?_, ?_⟩
  · obtain ⟨f, hf, htag, -, hown⟩ := State.entryDone_entries h r c
    refine ⟨f e, by rw [State.entry?_map htag hf, h]; rfl, ?_⟩
    rcases hown e (State.entry?_tag h) with he | he <;> rw [he]
    all_goals
      refine ⟨rfl, rfl, rfl, fun hs => ?_⟩
      obtain ⟨g, hg⟩ := Option.isSome_iff_exists.1 hs
      simp [Entry.finish, hg]
  · rw [hinv]
    exact s.inv.claims_release hx t
  · rw [hinv]
    exact s.inv.place_release_ne hx t
  · have hruns : s.seq.runs t = true := by simp [Sequencer.runs, hj, hk]
    rw [hseq, if_pos hruns]
    rfl
  · have hruns : ¬ s.seq.runs t = true := by
      intro k
      unfold Sequencer.runs at k
      split at k
      · rename_i j hj'
        rw [hj'] at hj
        exact hj (congrArg some (beq_iff_eq.1 k))
      · cases k
    rw [hseq, if_neg hruns]
  · rw [← Bay.forget_eq]
    unfold State.bay
    rw [hbays]
    exact getD_map (Bay.forget t) _ _ Bay.noDrive
  · refine ⟨s.completion (e.finish r c) r, fun hk => ?_, fun g k hk hg hc => ?_, ?_, ?_, ?_⟩
    · obtain rfl := State.entry?_tag h
      exact s.completion_plain (e := e.finish r c) hk r
    · obtain rfl := State.entry?_tag h
      have hcounts : (e.finish r c).counts = some k := by
        subst hc
        unfold Entry.finish
        rw [hg]
        cases c <;> rfl
      exact s.completion_scan (e := e.finish r c) hk hg hcounts r
    · have htag : e.tag = t := State.entry?_tag h
      exact (s.completion_completes _ _).trans (congrArg some htag)
    · rw [hinv, hbays, hseq, State.entryDone_some h]
      rfl
    · rw [State.entryDone_some h]
      exact (s.ended t r c e).askNotice_notices _

end Sys2Proof.Machine

/-! SUPPORT. ABORT_ALL (R57, R58). -/

namespace Sys2Proof.Machine

/-! ### The entry that holds the picker, while others end -/

theorem NoticeBody.isVerify_iff (b : NoticeBody) : b.isVerify = true ↔ ∃ t x d l e, b = .verify t x d l e := by
  cases b <;> simp [NoticeBody.isVerify]

theorem State.running_iff (s : State) (e : Entry) : s.running? = some e ↔ ∃ j, s.seq.job = some j ∧ JobOf s j e := by
  refine ⟨fun h => ?_, fun ⟨j, hj, he⟩ => State.running_of hj he⟩
  unfold State.running? at h
  split at h
  · rename_i j hj
    split at h
    · rename_i t hk
      obtain rfl := State.entry?_tag h
      exact ⟨j, hj, hk, h⟩
    · cases h
  · cases h

theorem State.modJob_eq (s : State) (f : Job → Job) : s.modJob f = { s with seq := { s.seq with job := s.seq.job.map f } } :=
  rfl

/-- The end of an entry of another tag leaves an entry and the job. -/
theorem State.entryDone_others {s : State} {t x : Tag} (hx : x ≠ t) (r : Result) (c : Option ScanCounts) :
    (s.entryDone t r c).entry? x = s.entry? x
      ∧ ∀ j, s.seq.job = some j → j.kind = .entry x → (s.entryDone t r c).seq.job = some j := by
  cases h : s.entry? t with
  | none =>
    rw [State.entryDone_none h]
    exact ⟨rfl, fun j hj _ => hj⟩
  | some e =>
    obtain ⟨f, hf, htag, hother, -⟩ := State.entryDone_entries h r c
    refine ⟨?_, fun j hj hk => ?_⟩
    · rw [State.entry?_map htag hf]
      cases he : s.entry? x with
      | none => rfl
      | some y =>
        have hy : y.tag ≠ t := by rwa [State.entry?_tag he]
        exact congrArg some (hother y hy)
    · obtain ⟨n, l, q, hd, -⟩ := State.entryDone_ended h r c
      have hruns : ¬ s.seq.runs t = true := by simp [Sequencer.runs, hj, hk, hx]
      rw [hd]
      refine (congrArg Sequencer.job (if_neg hruns)).trans hj

theorem State.endAll_others {x : Tag} {j : Job} (hk : j.kind = .entry x) (r : Result) (ts : List Tag) :
    ∀ s : State, x ∉ ts → s.seq.job = some j →
      (s.endAll ts r).entry? x = s.entry? x ∧ (s.endAll ts r).seq.job = some j := by
  induction ts with
  | nil => exact fun s _ hj => ⟨rfl, hj⟩
  | cons t ts ih =>
    intro s hx hj
    rw [List.mem_cons, not_or] at hx
    obtain ⟨he, hjob⟩ := State.entryDone_others (s := s) hx.1 r none
    obtain ⟨h1, h2⟩ := ih (s.entryDone t r) hx.2 (hjob j hj hk)
    exact ⟨h1.trans he, h2⟩

/-- Where tags are apart, an entry is not among those a condition it fails picks out. -/
theorem State.tag_notMem_where {s : State} (hn : TagsApart s) {e : Entry} (he : s.entry? e.tag = some e) {p : Entry → Bool}
    (hp : p e = false) : e.tag ∉ (s.queue.entries.filter p).map (·.tag) := by
  intro hm
  obtain ⟨o, ho, htag⟩ := List.mem_map.1 hm
  obtain ⟨ho, hpo⟩ := List.mem_filter.1 ho
  have h := State.entry_of_mem hn ho
  rw [htag, he] at h
  obtain rfl := Option.some.inj h
  simp [hp] at hpo

/-! ### O21 -/

theorem State.stoppable_none {s : State} (h : s.running? = none) : s.stoppable = none := by
  unfold State.stoppable
  rw [h]
  cases s.seq.job <;> rfl

theorem State.stoppable_running {s : State} {e : Entry} {j : Job} (hj : s.seq.job = some j) (h : s.running? = some e) :
    s.stoppable = if e.kind = .stow ∨ (e.kind = .move ∧ e.placed.isSome ∧ j.onReturn = none) then none else some e := by
  unfold State.stoppable
  rw [h, hj]

section
variable {s : State} (q : Byte)

theorem State.abortAll_plain (hs : s.stoppable = none) :
    s.abortAll q true = (s.endAll (s.tagsWhere Entry.cancellable) .cancelled).ok q 0x0D#8
      [byteOf (s.tagsWhere Entry.cancellable).length, 0x00#8] := by
  unfold State.abortAll
  dsimp only
  rw [hs]
  rfl

theorem State.abortAll_stops {e : Entry} (hs : s.stoppable = some e) :
    s.abortAll q true
      = ((s.endAll (s.tagsWhere Entry.cancellable) .cancelled).interrupt e .stop).ok q 0x0D#8
          [byteOf (s.tagsWhere Entry.cancellable).length, 0x01#8] := by
  unfold State.abortAll
  dsimp only
  rw [hs]
  rfl

end

theorem State.abortAll_unstopped (s : State) (q : Byte) :
    s.abortAll q false = (s.endAll (s.tagsWhere Entry.cancellable) .cancelled).ok q 0x0D#8
      [byteOf (s.tagsWhere Entry.cancellable).length, 0x00#8] := rfl

/-- Settles O21. -/
theorem abortAllCancels : Obligations.AbortAllCancels := by
  refine ⟨fun s => ⟨fun ts r => rfl, rfl, NoticeBody.isVerify_iff, s.running_iff, s.modJob_eq⟩, fun q s h => ?_⟩
  unfold Completes
  dsimp only [exec]
  refine ⟨fun body o hb hp => State.request_badFormat h _ hb hp, ?_, fun hr => ?_, fun e j hj hr hk => ?_,
    fun e j hj hr hs hk => ?_, fun e j hn hj hr hs hk hp => ?_⟩
  · refine State.request_completes h _ (one_carried _) (parse := parseAbort) (b := false) rfl ?_
    exact State.abortAll_unstopped _ q
  · refine State.request_completes h _ (one_carried _) (parse := parseAbort) (b := true) rfl ?_
    exact State.abortAll_plain q (State.stoppable_none hr)
  · refine State.request_completes h _ (one_carried _) (parse := parseAbort) (b := true) rfl ?_
    exact State.abortAll_plain q ((State.stoppable_running hj hr).trans (if_pos hk))
  · refine State.request_completes h _ (one_carried _) (parse := parseAbort) (b := true) rfl ?_
    have hstop : (s.accepted q).stoppable = some e := by
      refine (State.stoppable_running (s := s.accepted q) hj hr).trans (if_neg ?_)
      rcases hk with hk | ⟨hk, hp | hp⟩ <;> simp [hk]
      · simp [hp]
      · exact fun _ => Option.isSome_iff_ne_none.1 hp
    refine (State.abortAll_stops q hstop).trans (congrArg (fun v => State.ok v q 0x0D#8 _) ?_)
    exact if_neg (by simp [hs])
  · refine State.request_completes h _ (one_carried _) (parse := parseAbort) (b := true) rfl ?_
    have hstop : (s.accepted q).stoppable = some e :=
      (State.stoppable_running (s := s.accepted q) hj hr).trans (if_neg (by simp [hk, hp]))
    obtain ⟨j', hj', hjob⟩ := (s.running_iff e).1 hr
    obtain rfl : j' = j := Option.some.inj (hj'.symm.trans hj)
    have hcan : e.cancellable = false := by simp [Entry.cancellable, hs]
    obtain ⟨he, hjob1⟩ := State.endAll_others hjob.1 .cancelled _ (s.accepted q)
      (State.tag_notMem_where hn hjob.2 hcan) hj
    refine (State.abortAll_stops q hstop).trans (congrArg (fun v => State.ok v q 0x0D#8 _) ?_)
    refine (if_pos hs).trans ?_
    exact State.callReturn_sentHome (s := State.endHandOff _) hjob1 ⟨hjob.1, he.trans hjob.2⟩ (.interrupted .stop)

end Sys2Proof.Machine

/-! SUPPORT. An inventory update: its duplicate flags and the duplication it creates (R7, R11). -/

namespace Sys2Proof.Machine

/-! ### The location set -/

theorem Inventory.locations_nodup (v : Inventory) : v.locations.Nodup := by
  have hmap {f : Nat → Loc} (hf : Function.Injective f) (n : Nat) : ((List.range n).map f).Nodup :=
    List.nodup_range.map hf
  have hslot := hmap (f := Loc.slot) (fun _ _ h => Loc.slot.inj h) v.slots.length
  have hbay := hmap (f := Loc.bay) (fun _ _ h => Loc.bay.inj h) v.bays.length
  have hcell := hmap (f := Loc.cell) (fun _ _ h => Loc.cell.inj h) v.cells.length
  have hbays : ∀ a < v.bays.length, ∀ b : Loc,
      (∃ c < v.cells.length, Loc.cell c = b) ∨ b = .gripper → ¬ Loc.bay a = b := by
    rintro a - _ (⟨c, -, rfl⟩ | rfl) <;> simp
  have hslots : ∀ a < v.slots.length, ∀ b : Loc,
      (∃ c < v.bays.length, Loc.bay c = b) ∨ (∃ c < v.cells.length, Loc.cell c = b) ∨ b = .gripper →
        ¬ Loc.slot a = b := by
    rintro a - _ (⟨c, -, rfl⟩ | ⟨c, -, rfl⟩ | rfl) <;> simp
  unfold Inventory.locations
  simpa [List.nodup_append, hslot, hbay, hcell] using ⟨hbays, hslots⟩

theorem map_getD_range {α : Type} (l : List α) (d : α) : (List.range l.length).map (fun n => l.getD n d) = l := by
  refine List.ext_getElem (by simp) fun n h1 h2 => ?_
  simp [List.getD_eq_getElem?_getD, h2]

theorem Inventory.records_eq (v : Inventory) : v.records = v.locations.map v.place := by
  unfold Inventory.records Inventory.locations
  rw [List.map_append, List.map_append, List.map_append, List.map_map, List.map_map, List.map_map]
  exact congrArg₂ _ (congrArg₂ _ (congrArg₂ _ (map_getD_range v.slots _).symm (map_getD_range v.bays _).symm)
    (map_getD_range v.cells _).symm) rfl

theorem Inventory.holders_eq (v : Inventory) (l : Label) :
    v.holders l = (v.locations.filter fun x => (v.place x).holds == some l).length := by
  unfold Inventory.holders
  rw [v.records_eq, List.countP_map, List.countP_eq_length_filter]
  rfl

/-! ### The duplicate flags -/

@[simp] theorem Inventory.locations_mapAll (v : Inventory) (f : PlaceRec → PlaceRec) :
    (v.mapAll f).locations = v.locations := by
  simp [Inventory.mapAll, Inventory.locations]

theorem getD_map_of_lt {α β : Type} (f : α → β) {l : List α} {n : Nat} (h : n < l.length) (d : α) (e : β) :
    (l.map f).getD n e = f (l.getD n d) := by
  simp [List.getD_eq_getElem?_getD, h]

theorem Inventory.place_mapAll {v : Inventory} {x : Loc} (h : x ∈ v.locations) (f : PlaceRec → PlaceRec) :
    (v.mapAll f).place x = f (v.place x) := by
  cases x with
  | slot n => exact getD_map_of_lt f ((v.mem_locations_slot n).1 h) _ _
  | bay n => exact getD_map_of_lt f ((v.mem_locations_bay n).1 h) _ _
  | cell n => exact getD_map_of_lt f ((v.mem_locations_cell n).1 h) _ _
  | gripper => rfl

theorem Inventory.place_reflag {v : Inventory} {x : Loc} (h : x ∈ v.locations) :
    v.reflag.place x = { v.place x with dup := v.duplicated (v.place x) } := Inventory.place_mapAll h _

theorem Inventory.locations_reflag (v : Inventory) : v.reflag.locations = v.locations := v.locations_mapAll _

theorem Inventory.holds_reflag (v : Inventory) (x : Loc) : (v.reflag.place x).holds = (v.place x).holds := by
  by_cases h : x ∈ v.locations
  · rw [Inventory.place_reflag h]
    rfl
  · rw [Inventory.place_outside _ h, Inventory.place_outside _ (by rwa [Inventory.locations_reflag])]

theorem two_le_length_iff {α : Type} [DecidableEq α] {l : List α} (hl : l.Nodup) {x : α} (hx : x ∈ l) :
    2 ≤ l.length ↔ ∃ y ∈ l, y ≠ x := by
  rw [← List.toFinset_card_of_nodup hl]
  refine ⟨fun h => ?_, fun ⟨y, hy, hyx⟩ => ?_⟩
  · obtain ⟨y, hy, hyx⟩ := Finset.exists_mem_ne h x
    exact ⟨y, List.mem_toFinset.1 hy, hyx⟩
  · exact Finset.one_lt_card.2 ⟨y, List.mem_toFinset.2 hy, x, List.mem_toFinset.2 hx, hyx⟩

theorem Inventory.duplicated_place {v : Inventory} {x : Loc} (h : x ∈ v.locations) :
    v.duplicated (v.place x) = true
      ↔ ∃ l, (v.place x).holds = some l ∧ ∃ y ∈ v.locations, y ≠ x ∧ (v.place y).holds = some l := by
  unfold Inventory.duplicated
  cases hx : (v.place x).holds with
  | none => simp
  | some l =>
    have hmem : x ∈ v.locations.filter fun y => (v.place y).holds == some l := by simp [h, hx]
    simp only [decide_eq_true_eq, v.holders_eq, two_le_length_iff (v.locations_nodup.filter _) hmem, List.mem_filter,
      beq_iff_eq]
    constructor
    · rintro ⟨y, ⟨hy, hl⟩, hyx⟩
      exact ⟨l, rfl, y, hy, hyx, hl⟩
    · rintro ⟨k, hk, y, hy, hyx, hl⟩
      exact ⟨y, ⟨hy, hl.trans hk.symm⟩, hyx⟩

/-! ### The duplication an update creates -/

/-- The update from `v` to `w` gives `x` a label that two or more hold after it, and fewer before (R11). -/
def Inventory.Creates (v w : Inventory) (x : Loc) (l : Label) : Prop :=
  x ∈ w.locations ∧ (w.place x).holds = some l ∧ (v.place x).holds ≠ some l ∧ 2 ≤ w.holders l
    ∧ v.holders l < w.holders l

/-- What the search for a duplication sees at a location. -/
def Inventory.duplicationAt (v w : Inventory) (x : Loc) : Option (Label × Loc × Nat) :=
  match (w.place x).holds with
  | none => none
  | some l =>
    if (v.place x).holds ≠ some l ∧ 2 ≤ w.holders l ∧ v.holders l < w.holders l then some (l, x, w.holders l) else none

theorem Inventory.duplicationTo_eq (v w : Inventory) :
    v.duplicationTo w = w.locations.findSome? (v.duplicationAt w) := rfl

theorem Inventory.duplicationAt_some {v w : Inventory} {x : Loc} (hx : x ∈ w.locations) (b : Label × Loc × Nat) :
    v.duplicationAt w x = some b ↔ ∃ l, v.Creates w x l ∧ b = (l, x, w.holders l) := by
  unfold Inventory.duplicationAt Inventory.Creates
  cases h : (w.place x).holds with
  | none => simp
  | some l =>
    simp only [Option.ite_none_right_eq_some, Option.some.injEq, hx, true_and]
    constructor
    · rintro ⟨hc, rfl⟩
      exact ⟨l, ⟨rfl, hc⟩, rfl⟩
    · rintro ⟨k, ⟨rfl, hc⟩, rfl⟩
      exact ⟨hc, rfl⟩

theorem Inventory.duplicationTo_none {v w : Inventory} (h : ∀ x l, ¬ v.Creates w x l) : v.duplicationTo w = none := by
  rw [Inventory.duplicationTo_eq, List.findSome?_eq_none_iff]
  intro x hx
  refine Option.eq_none_iff_forall_ne_some.2 fun b hb => ?_
  obtain ⟨l, hl, -⟩ := (Inventory.duplicationAt_some hx b).1 hb
  exact h x l hl

theorem Inventory.duplicationTo_some {v w : Inventory} {x : Loc} {l : Label} (h : v.Creates w x l)
    (hu : ∀ y k, v.Creates w y k → y = x) : v.duplicationTo w = some (l, x, w.holders l) := by
  rw [Inventory.duplicationTo_eq]
  cases hf : w.locations.findSome? (v.duplicationAt w) with
  | none =>
    have hx := List.findSome?_eq_none_iff.1 hf x h.1
    rw [(Inventory.duplicationAt_some h.1 _).2 ⟨l, h, rfl⟩] at hx
    cases hx
  | some b =>
    obtain ⟨y, hy, hb⟩ := List.exists_of_findSome?_eq_some hf
    obtain ⟨k, hk, rfl⟩ := (Inventory.duplicationAt_some hy b).1 hb
    obtain rfl := hu y k hk
    obtain rfl : k = l := Option.some.inj (hk.2.1.symm.trans h.2.1)
    rfl

theorem Inventory.creates_reflag (v w : Inventory) (x : Loc) (l : Label) : v.Creates w.reflag x l ↔ v.Creates w x l := by
  unfold Inventory.Creates
  rw [w.locations_reflag, w.holds_reflag, w.reflag_holders]

theorem State.inventoryUpdate_plain {s : State} {f : Inventory → Inventory} (h : ∀ x l, ¬ s.inv.Creates (f s.inv) x l) :
    s.inventoryUpdate f = { s with inv := (f s.inv).reflag } := by
  unfold State.inventoryUpdate
  dsimp only
  rw [Inventory.duplicationTo_none fun x l => (Inventory.creates_reflag _ _ x l).not.2 (h x l)]

theorem State.inventoryUpdate_duplicates {s : State} {f : Inventory → Inventory} {x : Loc} {l : Label}
    (h : s.inv.Creates (f s.inv) x l) (hu : ∀ y k, s.inv.Creates (f s.inv) y k → y = x) :
    s.inventoryUpdate f =
      State.askAttention { s with inv := (f s.inv).reflag } (.duplicateLabel l x ((f s.inv).holders l)) := by
  unfold State.inventoryUpdate
  dsimp only
  rw [Inventory.duplicationTo_some ((Inventory.creates_reflag _ _ x l).2 h)
    fun y k hk => hu y k ((Inventory.creates_reflag _ _ y k).1 hk), Inventory.reflag_holders]

theorem State.inventoryUpdate_inv (s : State) (f : Inventory → Inventory) :
    (s.inventoryUpdate f).inv = (f s.inv).reflag := by
  obtain ⟨n, w, h⟩ := s.inventoryUpdate_frame f
  rw [h]

end Sys2Proof.Machine

/-! SUPPORT. Notices: how one enters, waits or is folded, and how the queue is refilled (chapter 9). -/

namespace Sys2Proof.Machine

/-! ### The attention summary -/

theorem AttnKind.mem_all (k : AttnKind) : k ∈ AttnKind.all := by
  cases k <;> decide

theorem AttnKind.all_ascends : (AttnKind.all.map fun k => k.code.toNat).Pairwise (· < ·) := by
  decide

/-- The summary holds what it held and the kind that is folded, in the order of the kinds' codes (R147). -/
theorem Notices.fold_summary (n : Notices) (k : AttnKind) :
    (∀ x, x ∈ (n.fold k).summary ↔ x = k ∨ x ∈ n.summary)
      ∧ ((n.fold k).summary.map fun x => x.code.toNat).Pairwise (· < ·) := by
  refine ⟨fun x => ?_, AttnKind.all_ascends.sublist (List.filter_sublist.map _)⟩
  simp [Notices.fold, AttnKind.mem_all x]

/-! ### What enters and what waits -/

theorem Link.hand_eq (l : Link) (n : Notice) :
    l.hand n =
      { l with
        noticeFrames :=
          if ∃ m ∈ l.noticeFrames, m.number = n.number then
            l.noticeFrames.map fun m => if m.number = n.number then n else m
          else l.noticeFrames ++ [n] } := by
  unfold Link.hand
  simp only [List.any_eq_true, beq_iff_eq]
  split <;> rfl

theorem State.askNotice_eq (s : State) (b : NoticeBody) :
    s.askNotice b =
      if s.notices.admission = [] ∧ s.notices.queue.length < 24 then s.enterNotice b
      else { s with notices := { s.notices with admission := s.notices.admission ++ [b] } } := by
  unfold State.askNotice
  simp only [Bool.and_eq_true, List.isEmpty_iff, hasPlace_iff]

theorem State.askAttention_eq (s : State) (a : Attention) :
    s.askAttention a =
      if s.notices.admission = [] ∧ s.notices.queue.length < 24 ∧ s.notices.summary = [] then
        s.enterNotice (.attention a)
      else { s with notices := s.notices.fold a.kind } := by
  unfold State.askAttention
  simp only [Bool.and_eq_true, List.isEmpty_iff, hasPlace_iff, and_assoc]

theorem State.enterSummary_eq (s : State) :
    s.enterSummary =
      if s.notices.admission = [] ∧ s.notices.queue.length < 24 ∧ s.notices.summary ≠ [] then
        State.enterNotice { s with notices := { s.notices with summary := [] } } (.summary s.notices.summary)
      else s := by
  unfold State.enterSummary
  simp only [Bool.and_eq_true, List.isEmpty_iff, hasPlace_iff, and_assoc, Bool.not_eq_true', List.isEmpty_eq_false_iff]

theorem State.refill_cons (s : State) (b : NoticeBody) (r : List NoticeBody) :
    State.refill (b :: r) s =
      if s.notices.queue.length < 24 then
        State.refill r (State.enterNotice { s with notices := { s.notices with admission := r } } b)
      else s := if_congr (hasPlace_iff s.notices) rfl rfl

/-- What the refill of the queue from the admission list `bs` leaves (R144 step 2). -/
theorem State.refill_notices (bs : List NoticeBody) : ∀ s : State, s.notices.admission = bs →
    s.notices.queue.length ≤ 24 →
    let k := min bs.length (24 - s.notices.queue.length)
    let t := State.refill bs s
    (t.notices.queue.map fun m => (m.number, m.body))
        = (s.notices.queue.map fun m => (m.number, m.body))
          ++ ((bs.take k).zipIdx.map fun p => (s.notices.next + BitVec.ofNat 16 p.2, p.1))
      ∧ t.notices.admission = bs.drop k ∧ t.notices.next = s.notices.next + BitVec.ofNat 16 k
      ∧ t.notices.summary = s.notices.summary := by
  induction bs with
  | nil =>
    intro s ha hq
    simp [State.refill, ha]
  | cons b bs ih =>
    intro s ha hq
    rw [State.refill_cons]
    by_cases hlt : s.notices.queue.length < 24
    · rw [if_pos hlt]
      have hn := State.enterNotice_notices { s with notices := { s.notices with admission := bs } } b
      obtain ⟨h1, h2, h3, h4⟩ := ih (State.enterNotice { s with notices := { s.notices with admission := bs } } b)
        (by rw [hn]) (by rw [hn]; simpa using hlt)
      rw [hn] at h1 h2 h3 h4
      have hk : min (b :: bs).length (24 - s.notices.queue.length)
          = min bs.length (24 - (s.notices.queue.length + 1)) + 1 := by
        rw [List.length_cons]
        omega
      simp only [List.length_append, List.length_cons, List.length_nil] at h1 h2 h3
      dsimp only
      rw [h1, h2, h3, h4, hk]
      generalize min bs.length (24 - (s.notices.queue.length + 1)) = k
      have hadd (i : Nat) : s.notices.next + 1 + BitVec.ofNat 16 i = s.notices.next + BitVec.ofNat 16 (i + 1) := by
        rw [BitVec.ofNat_add]
        bv_omega
      refine ⟨?_, rfl, hadd k, rfl⟩
      have hshift (l : List NoticeBody) : (l.zipIdx.map fun p => (s.notices.next + 1 + BitVec.ofNat 16 p.2, p.1))
          = (l.zipIdx 1).map fun p => (s.notices.next + BitVec.ofNat 16 p.2, p.1) := by
        rw [List.zipIdx_succ (i := 0), List.map_map]
        exact congrArg (fun f => l.zipIdx.map f) (funext fun p => Prod.ext (hadd p.2) rfl)
      rw [hshift]
      simp
    · rw [if_neg hlt]
      have hk : 24 - s.notices.queue.length = 0 := by omega
      simp [hk, ha]

/-- Settles O23. -/
theorem noticesEnterOrWait : Obligations.NoticesEnterOrWait := by
  refine ⟨fun s b => ⟨?_, s.askNotice_eq b⟩, fun s a => ⟨fun ha hq hs => ?_, fun hn => ?_⟩,
    fun s => ⟨rfl, s.refill_cons, s.enterSummary_eq⟩, fun s hq => ?_, fun v => ?_, fun v x o l => ?_, fun s f => ?_⟩
  · unfold State.enterNotice
    simp only [Link.hand_eq, List.isEmpty_iff]
    cases b <;> rfl
  · have hask : s.askAttention a = s.enterNotice (.attention a) := (s.askAttention_eq a).trans (if_pos ⟨ha, hq, hs⟩)
    rw [hask, State.enterNotice_notices]
    exact ⟨rfl, rfl, hs, ha, rfl⟩
  · have hask := (s.askAttention_eq a).trans (if_neg hn)
    obtain ⟨hmem, hasc⟩ := s.notices.fold_summary a.kind
    rw [hask]
    exact ⟨rfl, rfl, hmem, hasc, rfl⟩
  · obtain ⟨h1, h2, h3, h4⟩ := State.refill_notices _ s rfl hq
    refine ⟨h1, h2, h3, h4, fun ha hl hs => ?_, fun hn => ?_⟩
    · rw [State.enterSummary_eq, if_pos ⟨ha, hl, hs⟩, State.enterNotice_notices]
      exact ⟨rfl, rfl⟩
    · rw [State.enterSummary_eq, if_neg hn]
  · exact ⟨rfl, fun n => ⟨rfl, rfl, rfl⟩, rfl, fun p => rfl, fun x => rfl⟩
  · exact ⟨v.locations_modify x _, fun hx => v.place_modify_same hx _, fun y hy => v.place_modify_ne (Ne.symm hy) _⟩
  · have hinv := s.inventoryUpdate_inv f
    have hcreates (x : Loc) (l : Label) :
        (x ∈ (f s.inv).locations ∧ ((f s.inv).place x).holds = some l ∧ (s.inv.place x).holds ≠ some l
          ∧ 2 ≤ ((f s.inv).locations.filter fun y => ((f s.inv).place y).holds == some l).length
          ∧ (s.inv.locations.filter fun y => (s.inv.place y).holds == some l).length
            < ((f s.inv).locations.filter fun y => ((f s.inv).place y).holds == some l).length)
        ↔ s.inv.Creates (f s.inv) x l := by
      rw [← Inventory.holders_eq, ← Inventory.holders_eq]
      rfl
    refine ⟨?_, fun x hx => ⟨?_, ?_⟩, fun x l hc hu => ?_, fun hn => ?_⟩
    · rw [hinv, Inventory.locations_reflag]
    · rw [hinv, Inventory.place_reflag hx]
    · rw [hinv, Inventory.place_reflag hx]
      exact Inventory.duplicated_place hx
    · refine (State.inventoryUpdate_duplicates ((hcreates x l).1 hc) fun y k hk => hu y k ((hcreates y k).2 hk)).trans ?_
      rw [hinv, Inventory.holders_eq]
      rfl
    · rw [hinv]
      exact State.inventoryUpdate_plain fun x l hc => hn x l ((hcreates x l).2 hc)

end Sys2Proof.Machine

/-! SUPPORT. Refused requests change the link alone (R170). -/

namespace Sys2Proof.Machine

/-! ### O8 -/

theorem Status.code_toNat (st : Status) : st.code.toNat = if st.refusal then st.ctorIdx + 12 else st.ctorIdx := by
  cases st <;> rfl

/-- A refusal's code is no other status's (R185). -/
theorem Status.code_ne {st st' : Status} (h : st.refusal = true) (h' : st'.refusal = false) : st.code ≠ st'.code := by
  intro k
  have hk := congrArg BitVec.toNat k
  rw [st.code_toNat, st'.code_toNat, h, h'] at hk
  have hr : 4 ≤ st.ctorIdx := of_decide_eq_true h
  have hr' : ¬ 4 ≤ st'.ctorIdx := of_decide_eq_false h'
  simp only [if_true, Bool.false_eq_true, if_false] at hk
  omega

/-- What a block makes of the accepted request `s`: nothing but the link changes, or no refusal is cached. -/
def Restrained (s u : State) : Prop :=
  u = { s with link := u.link } ∨ u.link.cache = none
    ∨ ∃ q k st fs, st.refusal = false ∧ u.link.cache = some (replyFrame q k st fs)

section
variable (s u : State) (q k : Byte)

theorem restrained_reply (st : Status) (fs : List Byte) : Restrained s (s.reply q k st fs) := .inl rfl

/-- A reply that does not refuse, whatever has been done before it. -/
theorem restrained_done {st : Status} (h : st.refusal = false) (fs : List Byte) (x : Bool) :
    Restrained s (u.reply q k st fs x) := .inr (.inr ⟨q, k, st, fs, h, rfl⟩)

theorem restrained_ok (fs : List Byte) : Restrained s (u.ok q k fs) := restrained_done s u q k rfl fs false

end

theorem Restrained.of_exchange {s u t : State} (h : t.exchange = u.exchange) (hu : u.link.cache = none
    ∨ ∃ q k st fs, st.refusal = false ∧ u.link.cache = some (replyFrame q k st fs)) : Restrained s t := by
  have hc : t.link.cache = u.link.cache := congrArg (fun x => x.2.1) h
  exact .inr (by rwa [hc])

/-- Operations after a reply that does not refuse leave it cached. -/
theorem Restrained.after_ok {s u t : State} {q k : Byte} {fs : List Byte} (h : t.exchange = (u.ok q k fs).exchange) :
    Restrained s t := .of_exchange h (.inr ⟨q, k, .ok, fs, rfl, rfl⟩)

theorem restrained_conclude (s : State) (q k : Byte) (a : Attempt) : Restrained s (s.conclude q k a) := by
  cases a with
  | error st => exact restrained_reply s q k st []
  | ok e => exact restrained_done s (s.join e) q e.kind.code rfl _ false

/-- The command, taken in `s`, ends its event with what a block makes of it. -/
def Declines (c : Instr) (s : State) : Prop := ∃ u, exec c s = .next (State.settle s u) ∧ Restrained s u

theorem Declines.of_request {α : Type} {c : Instr} {s : State} {q k : Byte} {b : List Byte}
    {parse : List Byte → Except Nat α} {act : State → α → State} (hw : bodyOk b = true) (ht : s.takes q)
    (hc : exec c s = s.request q k b parse act) (h : ∀ x u, u.link.cache = none → Restrained u (act u x)) :
    Declines c s := by
  have hb : b.length ≤ Config.bodyMax := of_decide_eq_true hw
  cases hp : parse b with
  | error o => exact ⟨_, hc.trans (State.request_malformed ht k hb hp act), .inl rfl⟩
  | ok x => exact ⟨_, hc.trans (State.request_taken ht k hb hp act), h x _ rfl⟩

theorem Declines.link {c : Instr} {s t : State} {q k : Byte} {st : Status} {fs : List Byte} (hd : Declines c s)
    (ht : exec c s = .next t) (hcache : t.link.cache = some (replyFrame q k st fs)) (hst : st.refusal = true) :
    t = { s with link := t.link } := by
  obtain ⟨u, hu, hr⟩ := hd
  obtain rfl : State.settle s u = t := Host.Outcome.next.inj (hu.symm.trans ht)
  rw [(State.settle_settled s u).cache] at hcache
  rcases hr with h | h | ⟨q', k', st', fs', hst', h⟩
  · rw [State.settle_of_link h]
  · rw [h] at hcache
    cases hcache
  · rw [h] at hcache
    have hf := congrArg Frame.body (Option.some.inj hcache)
    simp only [replyFrame, List.cons_append, List.nil_append, List.cons.injEq] at hf
    exact absurd hf.2.1.symm (Status.code_ne hst hst')

theorem declines_of_requestOf {c : Instr} {s : State} {q k : Byte} {b : List Byte} (hr : requestOf c = some (q, k, b))
    (hw : c.wellFormed = true) (ht : s.takes q) : Declines c s := by
  cases c with
  | describe | queryStatus | queryMap | pause | resume =>
    cases hr
    exact .of_request hw ht rfl fun _ u _ => restrained_ok u _ _ _ _
  | move | scan | stow =>
    cases hr
    exact .of_request hw ht rfl fun _ u _ => restrained_conclude u _ _ _
  | queryLocations | queryRequest | confirm | divert | returnHome =>
    cases hr
    refine .of_request hw ht rfl fun x u _ => ?_
    split
    · exact restrained_reply u _ _ _ _
    · exact restrained_ok u _ _ _ _
  | cancel =>
    cases hr
    refine .of_request hw ht rfl fun t u _ => ?_
    split
    · exact restrained_reply u _ _ _ _
    · split
      · exact restrained_ok u _ _ _ _
      · exact restrained_reply u _ _ _ _
  | abortAll =>
    cases hr
    exact .of_request hw ht rfl fun _ u _ => restrained_ok u _ _ _ _
  | portUnlock =>
    cases hr
    refine .of_request hw ht rfl fun _ u _ => ?_
    unfold State.unlock
    split
    · exact restrained_reply u _ _ _ _
    · split
      · exact restrained_reply u _ _ _ _
      · exact restrained_ok u _ _ _ _
  | portLock =>
    cases hr
    refine .of_request hw ht rfl fun _ u _ => ?_
    unfold State.lockPort
    cases u.port.state with
    | opened => exact restrained_reply u _ _ _ _
    | released | closed | secured | auditPending => exact restrained_ok u _ _ _ _
  | maintenanceEnter | maintenanceLeave =>
    cases hr
    refine .of_request hw ht rfl fun _ u _ => ?_
    unfold State.changeMode
    split
    · exact restrained_ok u _ _ _ _
    · exact restrained_reply u _ _ _ _
  | setExposed =>
    cases hr
    refine .of_request hw ht rfl fun n u hu => ?_
    split
    · exact restrained_reply u _ _ _ _
    · refine .of_exchange (u := u) ?_ (.inl hu)
      rw [State.askCommit_exchange, State.deferReply_exchange]
      split
      · rfl
      · exact State.mapChanged_exchange _
  | retireSlot =>
    cases hr
    refine .of_request hw ht rfl fun p u hu => ?_
    split
    · exact restrained_reply u _ _ _ _
    · exact .of_exchange (u := u) (by simp) (.inl hu)
  | consolidate =>
    cases hr
    refine .of_request hw ht rfl fun _ u hu => ?_
    split
    · exact restrained_reply u _ _ _ _
    · refine .of_exchange (u := u) ?_ (.inl hu)
      rw [State.askCommit_exchange, State.deferReply_exchange]
      exact State.mapChanged_exchange _
  | setParameters =>
    cases hr
    refine .of_request hw ht rfl fun p u hu => ?_
    split
    · exact restrained_reply u _ _ _ _
    · exact .of_exchange (u := u) (State.askCommit_exchange _) (.inl hu)
  | noticeAck q =>
    cases hr
    refine .of_request hw ht rfl fun n u _ => ?_
    unfold State.acknowledge
    split
    · exact restrained_reply u _ _ _ _
    · next i _ =>
      exact .after_ok (u := u.removeNotices (u.notices.queue.take (i + 1))) (q := q) (k := 0x18#8)
        (fs := [byteOf (i + 1)]) (by simp)
  | recover =>
    cases hr
    refine .of_request hw ht rfl fun _ u _ => ?_
    split
    · exact restrained_reply u _ _ _ _
    · split
      · exact restrained_reply u _ _ _ _
      · exact .after_ok (State.restart_exchange _ _)
  | resetSoft =>
    cases hr
    obtain ⟨hb, hl⟩ := Bool.and_eq_true_iff.1 hw
    exact .of_request hb ht (if_neg (bne_iff_ne.1 hl)) fun _ u _ => .after_ok (State.softReset_exchange _)
  | resetFull =>
    cases hr
    obtain ⟨hb, hl⟩ := Bool.and_eq_true_iff.1 hw
    exact .of_request hb ht (if_neg (bne_iff_ne.1 hl)) fun _ u _ => .inr (.inr ⟨_, _, .ok, [], rfl, rfl⟩)
  | unknownRequest q k b =>
    cases hr
    obtain ⟨hb, hk⟩ := Bool.and_eq_true_iff.1 hw
    refine ⟨_, (exec_unknownRequest (by simpa using hk) q b s).trans ((State.event_powered ht.1 _).trans
      (congrArg (fun v => Host.Outcome.next (State.settle s v))
        (State.takeFrame_accepted ht k (of_decide_eq_true hb) _))), .inl rfl⟩
  | _ => cases hr

/-- Settles O8. -/
theorem refusalChangesOnlyTheLink : Obligations.RefusalChangesOnlyTheLink := fun _ _ _ _ _ _ _ _ hr hw ht hx hc hst =>
  (declines_of_requestOf hr hw ht).link hx hc hst

end Sys2Proof.Machine

/-! SUPPORT. The receiver, the transmitter and the interval of RESET FULL, event by event (R168, R172, R174). -/

namespace Sys2Proof.Machine

/-! ### What a byte does to the receiver -/

/-- Off the third byte of a frame, only the last byte of a complete one is more than kept. -/
theorem Receiver.take_assembling {bs : List Byte} (h : bs.length ≠ 2) (b : Byte) :
    Receiver.take (.assembling bs) b =
      if completeFrame ((bs ++ [b]).drop 1) then
        if goodCheck ((bs ++ [b]).drop 1) then none else some .hunting
      else some (.assembling (bs ++ [b])) := by
  unfold Receiver.take
  dsimp only
  split
  next heq =>
    have hl := congrArg List.length heq
    simp only [List.length_append, List.length_cons, List.length_nil] at hl
    omega
  next => rfl

/-- A complete frame has a LENGTH before its last byte. -/
theorem completeFrame_length {bs : List Byte} {b : Byte} (h : completeFrame ((bs ++ [b]).drop 1) = true) :
    bs.length ≠ 2 := by
  intro hl
  match bs, hl with
  | [_, _], _ => simp [completeFrame] at h

theorem Receiver.take_length (a hi lo : Byte) :
    Receiver.take (.assembling [a, hi]) lo =
      some (if nat16 hi lo ≤ Config.bodyMax then .assembling [a, hi, lo] else .rehunt hi lo) := rfl

theorem Receiver.take_incomplete {bs : List Byte} {b : Byte} (hl : bs.length ≠ 2)
    (h : completeFrame ((bs ++ [b]).drop 1) = false) :
    Receiver.take (.assembling bs) b = some (.assembling (bs ++ [b])) := by
  rw [Receiver.take_assembling hl, if_neg (Bool.eq_false_iff.1 h)]

theorem Receiver.take_badCheck {bs : List Byte} {b : Byte} (h : completeFrame ((bs ++ [b]).drop 1) = true)
    (hg : goodCheck ((bs ++ [b]).drop 1) = false) : Receiver.take (.assembling bs) b = some .hunting := by
  rw [Receiver.take_assembling (completeFrame_length h), if_pos h, if_neg (Bool.eq_false_iff.1 hg)]

theorem Receiver.rehunt_eq (hi lo : Byte) :
    Receiver.rehunt hi lo =
      if hi = 0xC3#8 then .assembling [hi, lo] else if lo = 0xC3#8 then .assembling [lo] else .hunting := by
  unfold Receiver.rehunt Receiver.hunt
  by_cases h : hi = Config.sync
  · rw [if_pos h, if_pos h]
    rfl
  · rw [if_neg h, if_neg h]

/-- The two LENGTH bytes are examined as any bytes taken while hunting. -/
theorem Receiver.takeAll_rehunt (hi lo : Byte) (bs : List Byte) :
    Receiver.takeAll .hunting (hi :: lo :: bs) = (Receiver.rehunt hi lo).takeAll bs := by
  simp only [Receiver.takeAll, List.foldlM_cons, Receiver.take, Receiver.rehunt, Option.bind_eq_bind, Option.bind_some]
  by_cases h : hi = Config.sync
  · simp [Receiver.hunt, h, completeFrame]
  · simp [Receiver.hunt, h]

theorem Receiver.rehuntLength_append (hi lo : Byte) : Receiver.rehuntLength (hi ++ lo) = .rehunt hi lo := by
  rw [Receiver.rehuntLength, BitVec.extractLsb'_append_eq_left, BitVec.extractLsb'_append_eq_right]

theorem toNat_append_bytes (hi lo : Byte) : (hi ++ lo : Word16).toNat = nat16 hi lo := by
  rw [BitVec.toNat_append, nat16, Nat.shiftLeft_eq]
  have := lo.isLt
  rw [Nat.mul_comm, ← Nat.two_pow_add_eq_or_of_lt this]

/-! ### O9 -/

theorem State.event_receive {s : State} {f : State → State} {r : Receiver} (hp : s.powered = true)
    (hf : f s = s.receive r) :
    s.event f = .next { s with link := { s.link with receiver := r : Link }.startNext } := by
  rw [State.event_powered hp, hf, State.settle_receive]

theorem State.receiveAll_some (s : State) {r t : Receiver} {bs : List Byte} (h : r.takeAll bs = some t) :
    s.receiveAll r bs = s.receive t := by
  rw [State.receiveAll, h]

section
variable {s : State} (hp : s.powered = true)
include hp

theorem exec_syncReceived {bs : List Byte} {r : Receiver} (h : s.link.receiver.takeAll (Config.sync :: bs) = some r) :
    exec (.syncReceived bs) s = .next { s with link := { s.link with receiver := r : Link }.startNext } := by
  dsimp only [exec]
  unfold execSyncReceived
  exact State.event_receive hp (s.receiveAll_some h)

theorem exec_frameBadCheck {bs : List Byte} (hc : completeFrame bs = true) (hg : goodCheck bs = false) :
    exec (.frameBadCheck bs) s = .next { s with link := { s.link with receiver := .hunting : Link }.startNext } := by
  dsimp only [exec]
  unfold execFrameBadCheck
  exact State.event_receive hp (if_pos (by simp [hc, hg]))

theorem exec_frameLengthExceeded {hi lo : Byte} {bs : List Byte} {r : Receiver} (hl : Config.bodyMax < nat16 hi lo)
    (h : Receiver.takeAll .hunting (hi :: lo :: bs) = some r) :
    exec (.frameLengthExceeded (hi ++ lo) bs) s =
      .next { s with link := { s.link with receiver := r : Link }.startNext } := by
  dsimp only [exec]
  unfold execFrameLengthExceeded
  refine State.event_receive hp ?_
  rw [toNat_append_bytes, if_pos hl, Receiver.rehuntLength_append]
  exact s.receiveAll_some ((Receiver.takeAll_rehunt hi lo bs).symm.trans h)

theorem exec_interByteGapTimeout {held : List Byte} {b : Byte} {bs : List Byte} {r : Receiver}
    (ha : s.link.receiver = .assembling held) (h : Receiver.takeAll .hunting (b :: bs) = some r) :
    exec (.interByteGapTimeout b bs) s =
      .next { s with link := { s.link with receiver := r : Link }.startNext } := by
  dsimp only [exec]
  unfold execInterByteGapTimeout
  refine State.event_receive hp ?_
  rw [ha]
  exact s.receiveAll_some h

theorem exec_byteWithoutStopBit :
    exec .byteWithoutStopBit s = .next { s with link := { s.link with receiver := .hunting : Link }.startNext } := by
  dsimp only [exec]
  exact State.event_receive hp rfl

end

theorem Link.startNext_none {l : Link} (h : l.sending = none) :
    (∀ r rs, l.replies = r :: rs → l.startNext = { l with sending := some (.reply r), replies := rs })
    ∧ (l.replies = [] →
      (∀ n ns, l.noticeFrames = n :: ns → l.startNext = { l with sending := some (.notice n), noticeFrames := ns })
      ∧ (l.noticeFrames = [] → l.startNext = l)) := by
  unfold Link.startNext
  rw [h]
  refine ⟨fun r rs hr => ?_, fun hr => ⟨fun n ns hn => ?_, fun hn => ?_⟩⟩
  · rw [hr]
  · rw [hr, hn]
  · rw [hr, hn]

theorem Link.sent_of_open {l : Link} {f : TxFrame} (h : l.sending = some f)
    (hr : ∀ r, f = .reply r → r.closesReset = false) : l.sent = { l with sending := none } := by
  unfold Link.sent
  rw [h]
  cases f with
  | notice => rfl
  | reply r => exact if_neg (Bool.eq_false_iff.1 (hr r rfl))

theorem exec_frameSent {s : State} (hp : s.powered = true) :
    exec .frameSent s = .next { s with link := s.link.sent.startNext } := by
  dsimp only [exec]
  exact (State.event_powered hp _).trans (congrArg Host.Outcome.next (s.settle_link _))

/-- Settles O9. -/
theorem receiverAndTransmitterEvents : Obligations.ReceiverAndTransmitterEvents := by
  refine ⟨fun s q k st fs x => rfl, fun l => ⟨l.startNext_sending, Link.startNext_none⟩, fun r => ⟨rfl, fun b bs => rfl⟩,
    ⟨fun b => ?_, fun bs b => Receiver.take_incomplete, fun a hi lo h => ?_, fun a hi lo h => ?_,
      fun bs b => Receiver.take_badCheck⟩,
    fun s hp => ⟨fun _ _ h => exec_syncReceived hp h, fun _ => exec_frameBadCheck hp,
      fun _ _ _ _ hl h => exec_frameLengthExceeded hp hl h, fun _ _ _ _ ha h => exec_interByteGapTimeout hp ha h,
      exec_byteWithoutStopBit hp⟩, fun s f hp hf hr => ?_⟩
  · rfl
  · rw [Receiver.take_length, if_pos h]
  · rw [Receiver.take_length, if_neg (Nat.not_le.2 h), Receiver.rehunt_eq]
  · rw [exec_frameSent hp, Link.sent_of_open hf hr]
    refine congrArg (fun l => Host.Outcome.next { s with link := l }) ?_
    generalize s.link = l
    obtain ⟨_, _, _, _, _, replies, notices, _⟩ := l
    cases replies with
    | cons r rs => rfl
    | nil => cases notices <;> rfl

/-! ### O10 -/

/-- A frame taken in the interval of RESET FULL only brings the receiver back to hunting (R174). -/
theorem State.takeFrame_closed {s : State} (h : s.link.resetWait ≠ none) (q k : Byte) {b : List Byte}
    (hb : b.length ≤ Config.bodyMax) (act : State → State) :
    s.takeFrame q k b act = { s with link := { s.link with receiver := .hunting } } := by
  unfold State.takeFrame
  rw [if_neg (Nat.not_lt.2 hb)]
  exact if_pos (Option.isSome_iff_ne_none.2 h)

theorem Link.sent_reset {l : Link} {r : ReplyFrame} (h : l.sending = some (.reply r)) (hr : r.closesReset = true) :
    l.sent = { l with sending := none }.resetReplySent := by
  unfold Link.sent
  rw [h]
  exact if_pos hr

theorem Link.resetReplySent_reloaded {l : Link} {w : ResetWait} (h : l.resetWait = some w) (hw : w.reloaded = true) :
    l.resetReplySent = l.reopen := by
  unfold Link.resetReplySent
  rw [h]
  exact if_pos hw

theorem Link.resetReplySent_waits {l : Link} {w : ResetWait} (h : l.resetWait = some w) (hw : w.reloaded = false) :
    l.resetReplySent = { l with resetWait := some { w with replySent := true } } := by
  unfold Link.resetReplySent
  rw [h]
  exact if_neg (Bool.eq_false_iff.1 hw)

/-- Settles O10. -/
theorem resetIntervalOfTheLink : Obligations.ResetIntervalOfTheLink := by
  refine ⟨fun c q k b s hr hw hp hwait => ?_, fun s r w hp hs hr hwait => ⟨_, exec_frameSent hp, rfl, ?_, ?_⟩⟩
  · obtain ⟨hb, act, hact, -⟩ := takesFrame_of_requestOf hr hw
    rw [hact, State.event_powered hp, State.takeFrame_closed hwait q k hb, State.settle_link]
  · intro hw
    obtain ⟨hc, hrp, hl, hrw, hrc⟩ := s.link.sent.startNext_keeps
    have hsent := (Link.sent_reset hs hr).trans (Link.resetReplySent_reloaded hwait hw)
    rw [hc, hrp, hl, hrw, hrc, hsent]
    exact ⟨rfl, rfl, rfl, rfl, rfl⟩
  · intro hw
    obtain ⟨hc, hrp, hl, hrw, hrc⟩ := s.link.sent.startNext_keeps
    have hsent := (Link.sent_reset hs hr).trans (Link.resetReplySent_waits hwait hw)
    rw [hc, hrp, hl, hrw, hrc, hsent]
    exact ⟨rfl, rfl, rfl, rfl, by rw [hw]⟩

end Sys2Proof.Machine

/-! SUPPORT. Frames and notices, field by field (R141, R166, R167, R175 to R178, R184 to R186). -/

namespace Sys2Proof.Machine

theorem be32_eq (w : Word32) : be32 w =
    [byteOf (w.toNat / 65536 / 256), byteOf (w.toNat / 65536), byteOf (w.toNat / 256), byteOf w.toNat] := by
  have byte (k : Nat) : w.extractLsb' k 8 = byteOf (w.toNat / 2 ^ k) :=
    BitVec.eq_of_toNat_eq (by simp [byteOf, Nat.shiftRight_eq_div_pow])
  rw [be32, byte 24, byte 16, byte 8, byte 0, Nat.div_div_eq_div_mul, pow_zero, Nat.div_one]
  rfl

theorem completeFrame_iff (bs : List Byte) : completeFrame bs = true ↔
    ∃ hi lo rest, bs = hi :: lo :: rest ∧ 256 * hi.toNat + lo.toNat ≤ 240
      ∧ rest.length = 256 * hi.toNat + lo.toNat + 4 := by
  refine ⟨fun h => ?_, fun ⟨hi, lo, rest, hbs, hl, hr⟩ => ?_⟩
  · match bs, h with
    | hi :: lo :: rest, h =>
      obtain ⟨hl, hr⟩ := Bool.and_eq_true_iff.1 h
      exact ⟨hi, lo, rest, rfl, of_decide_eq_true hl, eq_of_beq hr⟩
  · rw [hbs]
    exact Bool.and_eq_true_iff.2 ⟨decide_eq_true hl, beq_iff_eq.2 hr⟩

theorem goodCheck_append (bs : List Byte) (hi lo : Byte) :
    goodCheck (bs ++ [hi, lo]) = true ↔ [hi, lo] = be16 (crc16 bs) := by
  simp [goodCheck]

theorem Frame.bytes_eq (f : Frame) : f.bytes = Config.sync :: (f.covered ++ be16 (crc16 f.covered)) := rfl

theorem Frame.goodCheck_covered (f : Frame) : goodCheck (f.covered ++ be16 (crc16 f.covered)) = true :=
  (goodCheck_append f.covered _ _).2 rfl

theorem Frame.covered_eq (f : Frame) :
    f.covered = byteOf (f.body.length / 256) :: byteOf f.body.length :: f.seq :: f.kind :: f.body := by
  rw [Frame.covered, be16_ofNat]
  rfl

theorem Frame.complete_covered {f : Frame} (h : f.body.length ≤ Config.bodyMax) :
    completeFrame (f.covered ++ be16 (crc16 f.covered)) = true := by
  have hb : f.body.length ≤ 240 := h
  have hl : 256 * (byteOf (f.body.length / 256)).toNat + (byteOf f.body.length).toNat = f.body.length := by
    rw [byteOf, byteOf, BitVec.toNat_ofNat, BitVec.toNat_ofNat]
    omega
  refine (completeFrame_iff _).2 ⟨_, _, _, by rw [f.covered_eq]; rfl, hl.le.trans hb, ?_⟩
  rw [hl]
  simp [be16]

/-! ### O11 -/

theorem optByte_code (m : Option LibMode) : optByte (m.map (·.code.toNat)) = match m with
    | some m => m.code
    | none => 0xFF#8 := by
  cases m with
  | none => rfl
  | some m => exact byteOf_of_toNat m.code

theorem optByte_recorded (r : Option ReturnMode) : optByte (r.map (·.lib.code.toNat)) = match r with
    | some .ready => 0x01#8
    | some .maintenance => 0x02#8
    | none => 0xFF#8 := by
  cases r with
  | none => rfl
  | some r => cases r <;> rfl

/-- Settles O11. -/
theorem framesCheckGood : Obligations.FramesCheckGood := by
  unfold Obligations.FramesCheckGood
  intro bit check two four
  have hfour : ∀ w : Word32, four w.toNat = be32 w := fun w => (be32_eq w).symm
  have hcheck : check = crc16 := rfl
  have htwo : ∀ w : Word16, two w.toNat = be16 w := fun w => (be16_eq w).symm
  refine ⟨be16_eq, be32_eq, fun f hf => ?frame, completeFrame_iff, fun bs hi lo => ?check, fun _ _ _ _ => rfl,
    fun _ => rfl, fun _ => rfl, rfl, rfl, rfl, rfl, fun n => ?notice⟩
  case frame =>
    have hcov : two f.body.length ++ f.seq :: f.kind :: f.body = f.covered := f.covered_eq.symm
    intro covered bs
    have hbs : bs = f.covered ++ be16 (crc16 f.covered) := by
      rw [← htwo, ← hcheck, ← hcov]
    rw [hbs]
    exact ⟨f.bytes_eq, f.complete_covered hf, f.goodCheck_covered⟩
  case check =>
    rw [htwo, hcheck]
    exact goodCheck_append bs hi lo
  case notice =>
    intro number text tagged located place mode flag framed
    have hframed : ∀ k bs, framed k bs = ⟨0x00#8, k, be16 n.number ++ byteOf n.count :: bs⟩ := fun k bs => by
      rw [be16_eq]
    have hnumber : number = optByte := by funext x; cases x <;> rfl
    have htext : text = labelField := by funext x; cases x <;> rfl
    have htagged : tagged = optTag := by funext x; cases x <;> rfl
    have hlocated : located = Loc.codes := by funext x; cases x <;> rfl
    have hplace : place = locField := by funext x; cases x <;> rfl
    have hmode : mode = fun m => optByte (m.map (·.code.toNat)) := by funext m; exact (optByte_code m).symm
    have hflag : flag = flagByte := rfl
    clear_value framed place mode flag number text tagged located four
    subst hnumber htext htagged hlocated hplace hmode hflag
    rw [Notice.frame]
    unfold NoticeBody.content NoticeBody.frameKind
    cases n.body with
    | attention a =>
      cases a with
      | modeChanged p m r c t =>
        simp only [Attention.fields, optByte_recorded]
        exact (hframed _ _).symm
      | storeFault b g =>
        simp only [Attention.fields, ← hfour]
        cases b <;> exact (hframed _ _).symm
      | _ => exact (hframed _ _).symm
    | completionMove => simp only [← hfour]; exact (hframed _ _).symm
    | completionScan => simp only [← hfour]; exact (hframed _ _).symm
    | verify => exact (hframed _ _).symm
    | summary => exact (hframed _ _).symm

end Sys2Proof.Machine

/-! SUPPORT. What the outcomes of the mechanism make of the job in flight, stage by stage (R64 to R66, R69, R71, R72, R74,
R84, R155). -/

namespace Sys2Proof.Machine

/-! ### An outcome that is taken reaches its stage -/

section
variable {s u : State} {n : Byte} {j : Job} {st : Stage} {x : Sense}

theorem Awaits.home_reached (h : Awaits s n .home j st) (hu : (s.taken.sample x).homeReached = u) :
    Completes (.homeOutcome n .reached x) s u := State.outcome_completes h (o := .reached) rfl hu

theorem Awaits.home_fault (h : Awaits s n .home j st) (hu : (s.taken.sample x).homeFailed = u) :
    Completes (.homeOutcome n .fault x) s u := State.outcome_completes h (o := .fault) rfl hu

theorem Awaits.travel_reached (h : Awaits s n .travel j st) (hu : (s.taken.sample x).travelReached = u) :
    Completes (.travelOutcome n .reached x) s u := State.outcome_completes h (o := .reached) rfl hu

theorem Awaits.travel_fault (h : Awaits s n .travel j st) (hu : (s.taken.sample x).travelFailed = u) :
    Completes (.travelOutcome n .fault x) s u := State.outcome_completes h (o := .fault) rfl hu

theorem Awaits.pick_held (h : Awaits s n .pick j st) (hu : (s.taken.sample x).pickHeld = u) :
    Completes (.pickOutcome n .held x) s u := State.outcome_completes h (o := .held) rfl hu

theorem Awaits.pick_none (h : Awaits s n .pick j st) (hu : (s.taken.sample x).pickNone = u) :
    Completes (.pickOutcome n .noneFound x) s u := State.outcome_completes h (o := .noneFound) rfl hu

theorem Awaits.pick_fault (h : Awaits s n .pick j st) (hu : (s.taken.sample x).pickFault = u) :
    Completes (.pickOutcome n .fault x) s u := State.outcome_completes h (o := .fault) rfl hu

theorem Awaits.place_placed (h : Awaits s n .place j st) (hu : s.taken.placePlaced = u) :
    Completes (.placeOutcome n .placed) s u := State.outcome_completes h (o := .placed) rfl hu

theorem Awaits.place_fault (h : Awaits s n .place j st) (hu : s.taken.placeFault = u) :
    Completes (.placeOutcome n .fault) s u := State.outcome_completes h (o := .fault) rfl hu

theorem Awaits.retract_done (h : Awaits s n .retract j st) (hu : (s.taken.sample x).retractDone = u) :
    Completes (.retractOutcome n .done x) s u := State.outcome_completes h (o := .done) rfl hu

theorem Awaits.retract_fault (h : Awaits s n .retract j st) (hu : (s.taken.sample x).mechanismFault = u) :
    Completes (.retractOutcome n .fault x) s u := State.outcome_completes h (o := .fault) rfl hu

theorem Awaits.probe_empty (h : Awaits s n .probe j st) (hu : s.taken.probeEmpty = u) :
    Completes (.probeOutcome n .empty) s u := State.outcome_completes h (o := .empty) rfl hu

theorem Awaits.probe_occupied (h : Awaits s n .probe j st) (hu : s.taken.probeOccupied = u) :
    Completes (.probeOutcome n .occupied) s u := State.outcome_completes h (o := .occupied) rfl hu

theorem Awaits.probe_fault (h : Awaits s n .probe j st) (hu : s.taken.probeFault = u) :
    Completes (.probeOutcome n .fault) s u := State.outcome_completes h (o := .fault) rfl hu

theorem Awaits.read_label {l : Label} (hl : labelOk l = true) (h : Awaits s n .read j st)
    (hu : s.taken.readTaken (some l) = u) : Completes (.readOutcome n (.label l)) s u :=
  State.outcome_completes h (o := .label l) rfl ((congrArg _ (outcomeLabel_ok hl)).trans hu)

theorem Awaits.read_noRead (h : Awaits s n .read j st) (hu : s.taken.readTaken none = u) :
    Completes (.readOutcome n .noRead) s u := State.outcome_completes h (o := .noRead) rfl hu

theorem Awaits.park_done (h : Awaits s n .park j st) (hu : s.taken.parkEnds .parked = u) :
    Completes (.parkOutcome n .done) s u := State.outcome_completes h (o := .done) rfl hu

theorem Awaits.park_fault (h : Awaits s n .park j st) (hu : s.taken.parkEnds .unhomed = u) :
    Completes (.parkOutcome n .fault) s u := State.outcome_completes h (o := .fault) rfl hu

theorem Awaits.unpark_done (h : Awaits s n .unpark j st) (hu : (s.taken.sample x).atBoundary (·.firstProper) = u) :
    Completes (.unparkOutcome n .done x) s u := State.outcome_completes h (o := .done) rfl hu

theorem Awaits.unpark_fault (h : Awaits s n .unpark j st) (hu : (s.taken.sample x).travelFault .firstProper = u) :
    Completes (.unparkOutcome n .fault x) s u := State.outcome_completes h (o := .fault) rfl hu

end

/-! ### What a stage leads to -/

section
variable {v : State} {j : Job} {e : Entry} (hv : v.seq.job = some j)
include hv

/-- A stage whose attempts are counted. -/
theorem State.beginStage_counted {st : Stage} (hst : st.order ≠ .travel) (hc : st.counted = true) :
    v.beginStage st = v.ordered { j with stage := some st, retry := 0, keptRetries := v.params.retries } st.picker
      st.order none := by
  rw [State.beginStage_ordered hv, Job.enter, if_pos hc]
  congr 1
  cases st <;> simp_all [State.target, Stage.order]

theorem State.firstProper_move (he : JobOf v j e) (hk : e.kind = .move) :
    v.firstProper = v.ordered { j with stage := some (.travel .source) } .busy .travel e.source := by
  rw [State.firstProper, State.running_of hv he]
  dsimp only
  rw [hk]
  exact (State.beginStage_entryTravel hv he).1

theorem State.firstProper_stow (he : JobOf v j e) (hk : e.kind = .stow) :
    v.firstProper = v.ordered { j with stage := some (.travel .dest) } .busy .travel e.dest := by
  rw [State.firstProper, State.running_of hv he]
  dsimp only
  rw [hk]
  exact (State.beginStage_entryTravel hv he).2

theorem State.beginAudit_byOrders {a : Audit} (ha : j.audit = some a) (hb : a.byOrders = true) :
    v.beginAudit = v.ordered { j with stage := some (.travel .scan) } .busy .travel (some a.current) := by
  rw [State.beginAudit, State.audit_of hv ha]
  dsimp only
  rw [if_pos hb]
  exact State.beginStage_scanTravel hv ha

theorem State.firstProper_scan (he : JobOf v j e) (hk : e.kind = .scan) {a : Audit} (ha : j.audit = some a)
    (hb : a.byOrders = true) :
    v.firstProper = v.ordered { j with stage := some (.travel .scan) } .busy .travel (some a.current) := by
  rw [State.firstProper, State.running_of hv he]
  dsimp only
  rw [hk]
  exact State.beginAudit_byOrders hv ha hb

theorem State.running_portAudit (hk : j.kind = .portAudit) : v.running? = none := by
  rw [State.running?, hv]
  dsimp only
  rw [hk]

theorem State.firstProper_portAudit (hk : j.kind = .portAudit) {a : Audit} (ha : j.audit = some a)
    (hb : a.byOrders = true) :
    v.firstProper = v.ordered { j with stage := some (.travel .scan) } .busy .travel (some a.current) := by
  rw [State.firstProper, State.running_portAudit hv hk]
  exact State.beginAudit_byOrders hv ha hb

/-- An interrupted port audit ends at its boundary (R125). -/
theorem State.atBoundary_struck (hk : j.kind = .portAudit) (hi : j.interruption.isSome = true) (go : State → State) :
    v.atBoundary go = { v with seq := { v.seq with job := none, picker := v.seq.picker.afterJob } } :=
  (State.atBoundary_portAudit hv hk go).trans (if_pos hi)

theorem State.atBoundary_audits (hk : j.kind = .portAudit) (hi : j.interruption = none) (go : State → State) :
    v.atBoundary go = go v :=
  (State.atBoundary_portAudit hv hk go).trans (if_neg (by simp [hi]))

/-- A mechanism fault of a stage that is at no location of its own. -/
theorem State.mechanismFault_away (he : JobOf v j e) (hx : v.stageLocation = none) :
    v.mechanismFault = v.endsFaulted e none (j.audit.map Audit.cut) :=
  (State.mechanismFault_entry hv he).trans (by rw [hx])

/-- The first travel fault is rehomed (R84). -/
theorem State.travelFault_first (hr : j.travelRetried = false) (next : AfterHome) :
    v.travelFault next =
      v.ordered { j with travelRetried := true, stage := some (.home next) } .homing .home none := by
  rw [State.travelFault, hv]
  dsimp only
  rw [if_neg (Bool.eq_false_iff.1 hr)]
  exact State.beginStage_plain (State.modJob_job hv _) (.home next) nofun rfl

theorem State.travelFault_second (hr : j.travelRetried = true) (next : AfterHome) :
    v.travelFault next = v.mechanismFault := by
  rw [State.travelFault, hv]
  exact if_pos hr

/-! ### HOME (R69, R84, R155) -/

theorem State.homeReached_homing {second : Bool} (hk : j.kind = .homing second) : v.homeReached = v.homingReached := by
  rw [State.homeReached, hv]
  dsimp only
  rw [hk]

theorem State.homeFailed_job (hk : ∀ second, j.kind ≠ .homing second) : v.homeFailed = v.mechanismFault := by
  rw [State.homeFailed, hv]
  dsimp only
  split
  next h => exact absurd h (hk false)
  next h => exact absurd h (hk true)
  next => rfl

end

/-- What follows a HOME that is no homing. -/
def State.afterHome (s : State) : AfterHome → State
  | .firstProper => s.firstProper
  | .travelAgain t => s.beginStage (.travel t)

theorem State.homeReached_job {v : State} {j : Job} (hv : v.seq.job = some j) (hk : ∀ second, j.kind ≠ .homing second)
    {next : AfterHome} (hs : j.stage = some (.home next)) : v.homeReached = v.atBoundary (·.afterHome next) := by
  rw [State.homeReached, hv]
  dsimp only
  rw [hs]
  cases hkind : j.kind with
  | homing second => exact absurd hkind (hk second)
  | entry | portAudit | parking => cases next <;> rfl

end Sys2Proof.Machine

/-! SUPPORT. The outcomes of HOME, TRAVEL, PARK and UNPARK (R69, R71, R72, R75, R84, R155). -/

namespace Sys2Proof.Machine

/-! ### O37 -/

section
variable {v : State} {j : Job} {e : Entry} (hv : v.seq.job = some j)
include hv

theorem State.afterHome_source (he : JobOf v j e) (hk : e.kind = .move) {next : AfterHome}
    (hn : next = .firstProper ∨ next = .travelAgain .source) :
    v.afterHome next = v.ordered { j with stage := some (.travel .source) } .busy .travel e.source := by
  rcases hn with rfl | rfl
  · exact State.firstProper_move hv he hk
  · exact (State.beginStage_entryTravel hv he).1

theorem State.afterHome_dest (he : JobOf v j e) (hk : e.kind = .stow) {next : AfterHome}
    (hn : next = .firstProper ∨ next = .travelAgain .dest) :
    v.afterHome next = v.ordered { j with stage := some (.travel .dest) } .busy .travel e.dest := by
  rcases hn with rfl | rfl
  · exact State.firstProper_stow hv he hk
  · exact (State.beginStage_entryTravel hv he).2

theorem State.afterHome_scan (he : JobOf v j e) (hk : e.kind = .scan) {a : Audit} (ha : j.audit = some a)
    {next : AfterHome} (hn : next = .travelAgain .scan ∨ (next = .firstProper ∧ a.byOrders = true)) :
    v.afterHome next = v.ordered { j with stage := some (.travel .scan) } .busy .travel (some a.current) := by
  rcases hn with rfl | ⟨rfl, hb⟩
  · exact State.beginStage_scanTravel hv ha
  · exact State.firstProper_scan hv he hk ha hb

theorem State.afterHome_portAudit (hk : j.kind = .portAudit) {a : Audit} (ha : j.audit = some a)
    {next : AfterHome} (hn : next = .travelAgain .scan ∨ (next = .firstProper ∧ a.byOrders = true)) :
    v.afterHome next = v.ordered { j with stage := some (.travel .scan) } .busy .travel (some a.current) := by
  rcases hn with rfl | ⟨rfl, hb⟩
  · exact State.beginStage_scanTravel hv ha
  · exact State.firstProper_portAudit hv hk ha hb

end

/-- Homing itself: its REACHED, and its two FAULTs (R155). -/
theorem Awaits.homing_outcomes {s : State} {n : Byte} {x : Sense} {j : Job} {st : Stage} {second : Bool}
    (h : Awaits s n .home j st) (hk : j.kind = .homing second) (hp : s.seq.picker = .homing) :
    let a : State := s.taken.sample x
    let idle : State :=
      { a with seq := { s.seq with job := none, picker := .idle }, ctl := { s.ctl with ret := .ready } }
    (x.gripper = true →
      Completes (.homeOutcome n .reached x) s
        ((idle.inventoryUpdate (·.gripperSensed true)).setMode .holding .homed))
    ∧ (x.gripper = false →
      Completes (.homeOutcome n .reached x) s
        ((idle.inventoryUpdate (·.gripperSensed false)).setMode .ready .homed).cancelStows)
    ∧ (second = false →
      Completes (.homeOutcome n .fault x) s
        (a.ordered { j with kind := .homing true, stage := some (.home .firstProper) } .homing .home none))
    ∧ (second = true →
      Completes (.homeOutcome n .fault x) s
        (a.halted .faulted .homingFailed none)) := by
  intro a idle
  have hj : a.seq.job = some j := h.job
  have hidle : { a with seq := a.seq.endJob, ctl := { a.ctl with ret := .ready } } = idle := by
    have hseq : a.seq.endJob = { s.seq with job := none, picker := .idle } := by
      rw [Sequencer.endJob]
      exact congrArg (fun p => { s.seq with job := none, picker := Picker.afterJob p }) hp
    rw [hseq]
    rfl
  have hgrip : a.pins.gripper = x.gripper := rfl
  have hreached : a.homeReached =
      if x.gripper then (idle.inventoryUpdate (·.gripperSensed x.gripper)).setMode .holding .homed
      else ((idle.inventoryUpdate (·.gripperSensed x.gripper)).setMode .ready .homed).cancelStows := by
    rw [State.homeReached_homing hj hk, State.homingReached, hidle, hgrip]
  refine ⟨fun hg => h.home_reached ?_, fun hg => h.home_reached ?_, fun hs => h.home_fault ?_,
    fun hs => h.home_fault ?_⟩
  · rw [hreached, hg]
    rfl
  · rw [hreached, hg]
    rfl
  · subst hs
    change a.homeFailed = _
    rw [State.homeFailed, hj]
    dsimp only
    rw [hk]
    exact State.beginStage_plain (State.modJob_job hj _) (.home .firstProper) nofun rfl
  · subst hs
    change a.homeFailed = _
    rw [State.homeFailed, hj]
    dsimp only
    rw [hk]
    exact a.homingFaulted_halted

/-- Settles O37. -/
theorem homeOutcomes : Obligations.HomeOutcomes := by
  refine ⟨fun s n x j st second h hk hp => h.homing_outcomes hk hp, fun s n x j next h hk => ?_⟩
  intro a go
  have hj : a.seq.job = some j := h.job
  have hnext : a.homeReached = a.atBoundary (·.afterHome next) := State.homeReached_job hj hk h.stage
  have hgo {u : State} (hu : a.atBoundary (·.afterHome next) = u) : Completes (.homeOutcome n .reached x) s u :=
    h.home_reached (hnext.trans hu)
  have hfault : a.homeFailed = a.mechanismFault := State.homeFailed_job hj hk
  refine ⟨fun e he hkind hr hi => ⟨fun hn => hgo ?_, fun hn => hgo ?_⟩, fun e he hkind hi hn => hgo ?_,
    fun e i he hkind hp hr hi => hgo ?_, fun e c he hkind hr hn => ⟨fun ht => hgo ?_, fun ht => hgo ?_⟩,
    fun e v he hkind hv => ⟨fun hn => hgo ?_, fun hn hb => hgo ?_⟩,
    fun v hkind hv => ⟨fun hi hn => hgo ?_, fun hi => hgo ?_⟩, fun e he => h.home_fault ?_, fun hkind => h.home_fault ?_⟩
  · rw [State.atBoundary_move hj he hkind hr hi]
    exact State.afterHome_source hj he hkind hn
  · rw [State.atBoundary_move hj he hkind hr hi, hn]
    exact (State.beginStage_entryTravel hj he).2
  · rw [State.atBoundary_stow hj he hkind hi]
    exact State.afterHome_dest hj he hkind hn
  · exact State.atBoundary_broken hj he hkind hp hr hi _
  · rw [State.atBoundary_home hj he hkind hr, if_pos (show a.homeTest e = true from ht)]
    exact State.afterHome_source hj he hkind (.inr hn)
  · rw [State.atBoundary_home hj he hkind hr]
    exact if_neg (Bool.eq_false_iff.1 ht)
  · rw [State.atBoundary_scan hj he hkind]
    exact State.afterHome_scan hj he hkind hv hn
  · rw [State.atBoundary_scan hj he hkind, hn]
    exact State.firstProper_passed hj he hkind hv hb
  · rw [State.atBoundary_audits hj hkind hi]
    exact State.afterHome_portAudit hj hkind hv hn
  · exact State.atBoundary_struck hj hkind hi _
  · refine hfault.trans (State.mechanismFault_away hj he ?_)
    rw [State.stageLocation_of hj he, h.stage]
  · exact hfault.trans (State.mechanismFault_portAudit hj hkind)

/-! ### O38 -/

section
variable {v : State} {j : Job} {t : TravelTo} (hv : v.seq.job = some j)
include hv

theorem State.travelReached_job (hs : j.stage = some (.travel t)) : v.travelReached = v.atBoundary (·.afterTravel t) := by
  rw [State.travelReached, hv, Option.bind_some, hs]

theorem State.travelFailed_job (hs : j.stage = some (.travel t)) :
    v.travelFailed = v.travelFault (.travelAgain t) := by
  rw [State.travelFailed, hv, Option.bind_some, hs]

theorem State.afterTravel_source (hr : j.onReturn = none) : v.afterTravel .source = v.ordered
    { j with stage := some .pick, retry := 0, keptRetries := v.params.retries } .busy .pick none := by
  unfold State.afterTravel
  rw [hv]
  exact (congrArg (fun r => v.beginStage (if Option.isSome r then .place else .pick)) hr).trans
    (State.beginStage_counted hv (st := .pick) nofun rfl)

theorem State.afterTravel_home {c : Cause} (hr : j.onReturn = some c) : v.afterTravel .source = v.ordered
    { j with stage := some .place, retry := 0, keptRetries := v.params.retries } .busy .place none := by
  unfold State.afterTravel
  rw [hv]
  exact (congrArg (fun r => v.beginStage (if Option.isSome r then .place else .pick)) hr).trans
    (State.beginStage_counted hv (st := .place) nofun rfl)

theorem State.afterTravel_dest : v.afterTravel .dest = v.ordered
    { j with stage := some .place, retry := 0, keptRetries := v.params.retries } .busy .place none :=
  State.beginStage_counted hv (st := .place) nofun rfl

theorem State.afterTravel_scan : v.afterTravel .scan = v.ordered
    { j with stage := some .probe, retry := 0, keptRetries := v.params.retries } .busy .probe none :=
  State.beginStage_counted hv (st := .probe) nofun rfl

end

/-- Settles O38. -/
theorem travelOutcomes : Obligations.TravelOutcomes := by
  intro s n x j t h a first
  have hj : a.seq.job = some j := h.job
  have hgo {u : State} (hu : a.atBoundary (·.afterTravel t) = u) : Completes (.travelOutcome n .reached x) s u :=
    h.travel_reached ((State.travelReached_job hj h.stage).trans hu)
  have hfault {u : State} (hu : a.travelFault (.travelAgain t) = u) : Completes (.travelOutcome n .fault x) s u :=
    h.travel_fault ((State.travelFailed_job hj h.stage).trans hu)
  refine ⟨fun e he hk ht hr hi => hgo ?_, fun e he hk ht hr hi => hgo ?_, fun e i he hk hp hr hi => hgo ?_,
    fun e c he hk ht hr hh => hgo ?_, fun e c he hk ht hr hh => hgo ?_, fun e he hk ht => hgo ?_,
    fun hk ht hi => hgo ?_, fun hk ht hi => hgo ?_, fun hr => hfault ?_, fun e he hr => hfault ?_,
    fun hk hr => hfault ?_⟩
  · rw [State.atBoundary_move hj he hk hr hi, ht]
    exact State.afterTravel_source hj hr
  · have hgoes : a.atBoundary (·.afterTravel t) = a.afterTravel t := by
      rcases hk with hk | hk
      · exact State.atBoundary_move hj he hk hr hi _
      · exact State.atBoundary_stow hj he hk hi _
    rw [hgoes, ht]
    exact State.afterTravel_dest hj
  · exact State.atBoundary_broken hj he hk hp hr hi _
  · rw [State.atBoundary_home hj he hk hr, if_pos (show a.homeTest e = true from hh), ht]
    exact State.afterTravel_home hj hr
  · rw [State.atBoundary_home hj he hk hr]
    exact if_neg (Bool.eq_false_iff.1 hh)
  · rw [State.atBoundary_scan hj he hk, ht]
    exact State.afterTravel_scan hj
  · rw [State.atBoundary_audits hj hk hi, ht]
    exact State.afterTravel_scan hj
  · exact State.atBoundary_struck hj hk hi _
  · exact State.travelFault_first hj hr _
  · rw [State.travelFault_second hj hr]
    refine State.mechanismFault_away hj he ?_
    rw [State.stageLocation_of hj he, h.stage]
  · rw [State.travelFault_second hj hr]
    exact State.mechanismFault_portAudit hj hk

/-! ### O44 -/

/-- The expiry of the park timer, with the picker free (R70, R71). -/
theorem State.parkTimer_parks {s : State} (hp : s.powered = true) (ht : s.seq.parkTimer.isSome = true)
    (hf : s.seq.free = true) :
    Completes .parkTimerExpiry s
      (State.ordered { s with seq := { s.seq with parkTimer := none } }
        { Job.fresh .parking none with stage := some .park } .parking .park none) := by
  refine State.event_completes (f := fun s => if s.seq.parkTimer.isSome && s.seq.free then s.beginParking else s) hp ?_
  rw [if_pos (by rw [ht, hf]; rfl)]
  exact State.beginStage_plain
    (v := { s with seq := { s.seq with job := some (Job.fresh .parking none), parkTimer := none } }) rfl .park nofun rfl

/-- Settles O44. -/
theorem parkingAndUnparking : Obligations.ParkingAndUnparking := by
  refine ⟨fun k a => rfl, fun s => ⟨State.parkTimer_parks, fun n j h hk => ⟨h.park_done rfl, h.park_fault rfl⟩,
    fun n j x h => ?_⟩⟩
  intro a go
  have hj : a.seq.job = some j := h.job
  refine ⟨fun e he hr hi => ⟨fun hk => h.unpark_done ?_, fun hk => h.unpark_done ?_⟩,
    fun e v he hk hv => ⟨fun hb => h.unpark_done ?_, fun hb => h.unpark_done ?_⟩,
    fun v hk hv hb hi => h.unpark_done ?_, fun hk hi => h.unpark_done ?_, fun e i he hk hp hr hi => h.unpark_done ?_,
    fun hr => h.unpark_fault ?_, fun e he hr => h.unpark_fault ?_, fun hk hr => h.unpark_fault ?_⟩
  · exact (State.atBoundary_move hj he hk hr hi _).trans (State.firstProper_move hj he hk)
  · exact (State.atBoundary_stow hj he hk hi _).trans (State.firstProper_stow hj he hk)
  · exact (State.atBoundary_scan hj he hk _).trans (State.firstProper_scan hj he hk hv hb)
  · exact (State.atBoundary_scan hj he hk _).trans (State.firstProper_passed hj he hk hv hb)
  · exact (State.atBoundary_audits hj hk hi _).trans (State.firstProper_portAudit hj hk hv hb)
  · exact State.atBoundary_struck hj hk hi _
  · exact State.atBoundary_broken hj he hk hp hr hi _
  · exact State.travelFault_first hj hr _
  · refine (State.travelFault_second hj hr _).trans (State.mechanismFault_away hj he ?_)
    rw [State.stageLocation_of hj he, h.stage]
  · exact (State.travelFault_second hj hr _).trans (State.mechanismFault_portAudit hj hk)

end Sys2Proof.Machine

/-! SUPPORT. The outcomes of the PICK and of the IDENTIFY stage (R75 to R77, R79, R83, R88 to R90). -/

namespace Sys2Proof.Machine

/-! ### Operations that leave the job in flight -/

/-- `v` has the job, the entries, the parameters and the logical numbers of `s`. -/
structure KeepsJob (s v : State) : Prop where
  seq : v.seq = s.seq
  queue : v.queue = s.queue
  params : v.params = s.params
  view : v.view = s.view

theorem KeepsJob.rfl {s : State} : KeepsJob s s := ⟨.refl _, .refl _, .refl _, .refl _⟩

theorem KeepsJob.trans {s u v : State} (h : KeepsJob s u) (k : KeepsJob u v) : KeepsJob s v :=
  ⟨k.seq.trans h.seq, k.queue.trans h.queue, k.params.trans h.params, k.view.trans h.view⟩

theorem KeepsJob.inventoryUpdate (s : State) (f : Inventory → Inventory) : KeepsJob s (s.inventoryUpdate f) := by
  obtain ⟨n, w, h⟩ := s.inventoryUpdate_frame f
  rw [h]
  exact ⟨.refl _, .refl _, .refl _, .refl _⟩

theorem KeepsJob.modBay (s : State) (n : Nat) (f : Bay → Bay) : KeepsJob s (s.modBay n f) :=
  ⟨.refl _, .refl _, .refl _, .refl _⟩

theorem KeepsJob.bayUpdate (s : State) (n : Nat) (st : BayState) (l : Option Label) (more : Inventory → Inventory) :
    KeepsJob s (s.bayUpdate n st l more) := (KeepsJob.modBay s n _).trans (.inventoryUpdate _ _)

theorem KeepsJob.reportSuccess (s : State) (x : Option Loc) : KeepsJob s (s.reportSuccess x) := by
  cases x with
  | none => exact .rfl
  | some x => cases x <;> exact ⟨.refl _, .refl _, .refl _, .refl _⟩

theorem KeepsJob.jobOf {s v : State} (h : KeepsJob s v) {j : Job} {e : Entry} (he : JobOf s j e) : JobOf v j e := by
  obtain ⟨hk, hf⟩ := he
  refine ⟨hk, ?_⟩
  unfold State.entry? at hf ⊢
  rw [h.queue]
  exact hf

/-! ### The confirm test -/

section
variable {v : State} {j : Job} {e : Entry} (hv : v.seq.job = some j)
include hv

theorem State.confirmTest_goes (he : JobOf v j e) (hn : e.needsConfirm = false) :
    v.confirmTest = v.ordered { j with stage := some (.travel .dest) } .busy .travel e.dest := by
  rw [State.confirmTest, State.running_of hv he]
  dsimp only
  rw [if_neg (Bool.eq_false_iff.1 hn)]
  exact (State.beginStage_entryTravel hv he).2

theorem State.confirmTest_asks (he : JobOf v j e) (hn : e.needsConfirm = true) :
    v.confirmTest =
      State.askNotice
        { v with
          seq := { v.seq with job := some { j with stage := none } },
          queue :=
            { v.queue with
              entries := v.queue.entries.map fun y =>
                if y.tag = e.tag then { y with state := .awaitingConfirm } else y } }
        (.verify e.tag (e.source.map v.view) (e.dest.map v.view) e.labelRead e.expected) := by
  rw [State.confirmTest, State.running_of hv he]
  dsimp only
  rw [if_pos hn, State.awaitConfirm, State.modJob]
  have hjob : (v.modEntry e.tag ({ · with state := .awaitingConfirm })).seq.job = some j := hv
  rw [hjob]
  rfl

end

theorem Entry.needsConfirm_unverified {e : Entry} (h : e.verify = false) : e.needsConfirm = false := by
  rw [Entry.needsConfirm, h, Bool.false_and]

theorem Entry.needsConfirm_skipped {e : Entry} (h : e.verify = true) (hs : e.skipLabel = true) :
    e.needsConfirm = true := by
  rw [Entry.needsConfirm, h, hs, Bool.true_or, Bool.true_or, Bool.true_or, Bool.and_true]

theorem Entry.needsConfirm_matched {e : Entry} {l : Label} (hs : e.skipLabel = false) (hx : e.expected = some l)
    (hl : e.labelRead = some l) : e.needsConfirm = false := by
  simp [Entry.needsConfirm, hs, hx, hl]

theorem Entry.needsConfirm_unread {e : Entry} (h : e.verify = true) (hl : e.labelRead = none) :
    e.needsConfirm = true := by
  simp [Entry.needsConfirm, h, hl]

theorem Entry.needsConfirm_differs {e : Entry} {l : Label} (h : e.verify = true) (hx : e.expected ≠ some l)
    (hl : e.labelRead = some l) : e.needsConfirm = true := by
  simp [Entry.needsConfirm, h, hl, Ne.symm hx]

/-! ### O43 -/

/-- What the READ of an IDENTIFY stage leaves, before the boundary: the label in the entry and at the gripper. -/
def State.labelled (a : State) (e : Entry) (l : Option Label) : State :=
  let b := a.modEntry e.tag ({ · with labelRead := l })
  if a.inv.gripper.holds = l then b else b.inventoryUpdate fun v => v.put .gripper v.gripper.occ l

theorem State.labelled_keeps (a : State) (e : Entry) (l : Option Label) :
    KeepsJob (a.modEntry e.tag ({ · with labelRead := l })) (a.labelled e l) := by
  unfold State.labelled
  dsimp only
  split
  · exact .rfl
  · exact .inventoryUpdate _ _

theorem State.readTaken_identify {a : State} {j : Job} {e : Entry} (hj : a.seq.job = some j) (he : JobOf a j e)
    (hs : j.stage = some .identify) (l : Option Label) :
    a.readTaken l = (a.labelled e l).atBoundary (·.confirmTest) := by
  rw [State.readTaken, hj, Option.bind_some, hs]
  dsimp only
  rw [State.identified, State.running_of hj he]
  rfl

/-- Settles O43. -/
theorem identifyOutcomes : Obligations.IdentifyOutcomes := by
  intro s n j e h he hk hr read go ask
  have hread (l : Option Label) : s.taken.readTaken l = (read l).atBoundary (·.confirmTest) :=
    State.readTaken_identify (a := s.taken) h.job he h.stage l
  have hjob (l : Option Label) : (read l).seq.job = some j :=
    (congrArg Sequencer.job (s.taken.labelled_keeps e l).seq).trans h.job
  have hof (l : Option Label) : JobOf (read l) j { e with labelRead := l } :=
    (s.taken.labelled_keeps e l).jobOf (State.jobOf_modEntry (v := s.taken) he _ fun _ => rfl)
  have hview (l : Option Label) : (read l).view = s.view := (s.taken.labelled_keeps e l).view
  have hgoes {l : Option Label} (hi : j.interruption = none)
      (hn : Entry.needsConfirm { e with labelRead := l } = false) : s.taken.readTaken l = go (read l) := by
    rw [hread, State.atBoundary_move (hjob l) (hof l) hk hr hi]
    exact State.confirmTest_goes (e := { e with labelRead := l }) (hjob l) (hof l) hn
  have hasks {l : Option Label} (hi : j.interruption = none)
      (hn : Entry.needsConfirm { e with labelRead := l } = true) : s.taken.readTaken l = ask (read l) l := by
    rw [hread, State.atBoundary_move (hjob l) (hof l) hk hr hi, State.confirmTest_asks (hjob l) (hof l) hn, hview]
  have hbroken {l : Option Label} {i : Interruption} (hi : j.interruption = some i) (hp : e.placed = none) :
      s.taken.readTaken l = (read l).broken j { e with labelRead := l } i := by
    rw [hread]
    exact State.atBoundary_broken (hjob l) (hof l) (.inl hk) hp hr hi _
  refine ⟨fun hi => ⟨fun l hl hm => h.read_label hl (hgoes hi ?_), fun l hl hv hx => h.read_label hl (hasks hi ?_),
    fun hv => h.read_noRead (hgoes hi ?_), fun hv => h.read_noRead (hasks hi ?_)⟩,
    fun i hi hp => ⟨fun l hl => h.read_label hl (hbroken hi hp), h.read_noRead (hbroken hi hp)⟩⟩
  · rcases hm with hv | ⟨hs, hx⟩
    · exact Entry.needsConfirm_unverified hv
    · exact Entry.needsConfirm_matched hs hx rfl
  · exact Entry.needsConfirm_differs hv hx rfl
  · exact Entry.needsConfirm_unverified hv
  · exact Entry.needsConfirm_unread hv rfl

end Sys2Proof.Machine

/-! SUPPORT. The outcomes of the PICK and of the PLACE (R21, R75, R76, R78, R79, R105, R111, R122). -/

namespace Sys2Proof.Machine

theorem Job.exhausted_iff (j : Job) : j.exhausted = true ↔ j.keptRetries ≤ j.retry := decide_eq_true_iff

theorem State.reportFailure_seq (s : State) (x : Option Loc) (t : Tag) : (s.reportFailure x t).seq = s.seq := by
  obtain ⟨m, st, n, f, h⟩ := s.reportFailure_frame x t
  rw [h]

/-! ### O39 -/

theorem State.seqPut_emptied (a : State) (p : Nat) (v : Inventory) :
    a.seqPut (.cell p) .empty none v = v.put (.cell p) (if a.cellsKnown then .empty else .unknown) none := by
  unfold State.seqPut
  cases a.cellsKnown <;> rfl

theorem KeepsJob.takeUp (a : State) (e : Entry) (x : Loc) : KeepsJob a (a.takeUp e x) := by
  unfold State.takeUp
  cases x with
  | bay n => exact (KeepsJob.bayUpdate a n _ _ _).trans (.modBay _ _ _)
  | slot | cell | gripper => exact .inventoryUpdate _ _

theorem KeepsJob.findEmpty (a : State) (x : Loc) : KeepsJob a (a.findEmpty x) := by
  unfold State.findEmpty
  cases x with
  | bay n => exact .bayUpdate a n _ _ _
  | slot | cell | gripper => exact .inventoryUpdate _ _

theorem State.takeUp_slot (a : State) (e : Entry) (p : Nat) :
    (a.takeUp e (.slot p)).reportSuccess (some (.slot p)) =
      { a.inventoryUpdate (fun v =>
          (v.put (.slot p) .empty none).put .gripper .occupied (a.inv.place (.slot p)).holds) with
        map := { a.map with faults := a.map.faults.set p 0 } } := by
  obtain ⟨n, w, h⟩ := a.inventoryUpdate_frame fun v =>
    (v.put (.slot p) .empty none).put .gripper .occupied (a.inv.place (.slot p)).holds
  have hmap := congrArg State.map h
  exact congrArg (fun m : SlotMap => { a.inventoryUpdate (fun v =>
    (v.put (.slot p) .empty none).put .gripper .occupied (a.inv.place (.slot p)).holds) with
      map := { m with faults := m.faults.set p 0 } }) hmap

theorem State.takeUp_cell (a : State) (e : Entry) (p : Nat) :
    (a.takeUp e (.cell p)).reportSuccess (some (.cell p)) =
      a.inventoryUpdate fun v =>
        (v.put (.cell p) (if a.cellsKnown then .empty else .unknown) none).put .gripper .occupied
          (a.inv.place (.cell p)).holds := by
  simp only [State.takeUp, State.reportSuccess, State.seqPut_emptied]

section
variable {a : State} {j : Job} {e : Entry} (hj : a.seq.job = some j) (he : JobOf a j e)
include hj he

theorem State.pickHeld_job {x : Loc} (hx : e.source = some x) :
    a.pickHeld = (((a.takeUp e x).reportSuccess (some x)).modEntry e.tag ({ · with held := true })).atBoundary
      fun s => if e.skipLabel then s.confirmTest else s.beginStage .identify := by
  rw [State.pickHeld, State.running_of hj he]
  dsimp only
  rw [hx]

theorem State.pickNone_job {x : Loc} (hx : e.source = some x) :
    a.pickNone = (a.findEmpty x).ordered { j with stage := some (.retract .pickNone) } .busy .retract none := by
  rw [State.pickNone, State.running_of hj he, Option.bind_some, hx]
  exact State.beginStage_plain ((congrArg Sequencer.job (KeepsJob.findEmpty a x).seq).trans hj) (.retract .pickNone)
    nofun rfl

theorem State.pickFault_retried (hr : j.retry < j.keptRetries) :
    a.pickFault = a.ordered { j with stage := some (.retract .pickFault) } .busy .retract none := by
  rw [State.pickFault, State.running_of hj he, hj]
  dsimp only
  rw [State.reportIfExhausted, if_neg (by rw [j.exhausted_iff]; omega)]
  exact State.beginStage_plain hj (.retract .pickFault) nofun rfl

theorem State.pickFault_exhausted (hr : j.keptRetries ≤ j.retry) :
    a.pickFault =
      (a.reportFailure e.source e.tag).ordered { j with stage := some (.retract .pickFault) } .busy .retract none := by
  rw [State.pickFault, State.running_of hj he, hj]
  dsimp only
  rw [State.reportIfExhausted, if_pos (j.exhausted_iff.2 hr)]
  exact State.beginStage_plain ((congrArg Sequencer.job (a.reportFailure_seq _ _)).trans hj) (.retract .pickFault)
    nofun rfl

end

/-- Settles O39. -/
theorem pickOutcomes : Obligations.PickOutcomes := by
  intro s n x j e h he hk hr hp a known holding held none'
  have hj : a.seq.job = some j := h.job
  have hheld {y : Loc} {v : State} (hy : e.source = some y)
      (hv : (a.takeUp e y).reportSuccess (some y) = v) : held v := by
    have hkeep : KeepsJob a v := hv ▸ (KeepsJob.takeUp a e y).trans (.reportSuccess _ _)
    have hjob : (holding v).seq.job = some j := (congrArg Sequencer.job hkeep.seq).trans hj
    have hof : JobOf (holding v) j { e with held := true } :=
      State.jobOf_modEntry (hkeep.jobOf he) ({ · with held := true }) fun _ => rfl
    have hview : (holding v).view = s.view := hkeep.view
    have hpick : a.pickHeld =
        (holding v).atBoundary fun s => if e.skipLabel then s.confirmTest else s.beginStage .identify :=
      (State.pickHeld_job hj he hy).trans (by rw [hv]; rfl)
    refine ⟨fun hi hs => h.pick_held ?_, fun hi hs hvf => h.pick_held ?_, fun hi hs hvf => h.pick_held ?_,
      fun i hi => h.pick_held ?_⟩
    · rw [hpick, State.atBoundary_move hjob hof hk hr hi, hs]
      exact State.beginStage_plain hjob .identify nofun rfl
    · rw [hpick, State.atBoundary_move hjob hof hk hr hi, hs]
      exact State.confirmTest_goes (e := { e with held := true }) hjob hof (Entry.needsConfirm_unverified hvf)
    · rw [hpick, State.atBoundary_move hjob hof hk hr hi, hs]
      refine (State.confirmTest_asks (e := { e with held := true }) hjob hof
        (Entry.needsConfirm_skipped hvf hs)).trans ?_
      rw [hview]
    · rw [hpick]
      exact State.atBoundary_broken hjob hof (.inl hk) hp hr hi _
  have hnone {y : Loc} {v : State} (hy : e.source = some y) (hv : a.findEmpty y = v) : none' v :=
    h.pick_none ((State.pickNone_job hj he hy).trans (by rw [hv]))
  refine ⟨fun p hy => ⟨hheld hy ?_, hnone hy rfl⟩, fun p hy => ⟨hheld hy ?_, hnone hy ?_⟩,
    fun p hy => ⟨hheld hy rfl, hnone hy rfl⟩, fun hlt => h.pick_fault (State.pickFault_retried hj he hlt),
    fun hle => ⟨fun p hy => h.pick_fault ?_, fun p hy => h.pick_fault ?_⟩⟩
  · exact a.takeUp_slot e p
  · exact a.takeUp_cell e p
  · exact congrArg a.inventoryUpdate (funext (a.seqPut_emptied p))
  · exact (State.pickFault_exhausted hj he hle).trans (by rw [hy])
  · have hkeep : a.reportFailure e.source e.tag = a := by
      rcases hy with hy | hy <;> rw [hy] <;> rfl
    exact (State.pickFault_exhausted hj he hle).trans (by rw [hkeep])

/-! ### O40 -/

theorem KeepsJob.putDown (a : State) (j : Job) (e : Entry) (x : Loc) : KeepsJob a (a.putDown j e x) := by
  unfold State.putDown
  cases x with
  | bay n =>
    dsimp only
    split
    · exact (KeepsJob.inventoryUpdate a _).trans (.modBay _ _ _)
    · exact (KeepsJob.bayUpdate a n _ _ _).trans (.modBay _ _ _)
  | slot | cell | gripper => exact .inventoryUpdate _ _

theorem State.putDown_slot (a : State) (j : Job) (e : Entry) (p : Nat) :
    (a.putDown j e (.slot p)).reportSuccess (some (.slot p)) =
      { a.inventoryUpdate (fun v =>
          (v.put (.slot p) .occupied a.inv.gripper.holds).put .gripper .empty none) with
        map := { a.map with faults := a.map.faults.set p 0 } } := by
  obtain ⟨n, w, h⟩ := a.inventoryUpdate_frame fun v =>
    (v.put (.slot p) .occupied a.inv.gripper.holds).put .gripper .empty none
  have hmap := congrArg State.map h
  exact congrArg (fun m : SlotMap => { a.inventoryUpdate (fun v =>
    (v.put (.slot p) .occupied a.inv.gripper.holds).put .gripper .empty none) with
      map := { m with faults := m.faults.set p 0 } }) hmap

theorem State.putDown_cell (a : State) (j : Job) (e : Entry) (p : Nat) :
    (a.putDown j e (.cell p)).reportSuccess (some (.cell p)) =
      a.inventoryUpdate fun v =>
        (if a.port.state = .secured ∨ a.port.mark = .running then v.put (.cell p) .occupied a.inv.gripper.holds
          else v.put (.cell p) .unknown none).put .gripper .empty none := by
  simp only [State.putDown, State.reportSuccess, State.seqPut_cell]
  split <;> rfl

section
variable {a : State} {j : Job} {e : Entry} (hj : a.seq.job = some j) (he : JobOf a j e)
include hj he

theorem State.placePlaced_job {x : Loc} (hx : j.placeAt e = some x) :
    a.placePlaced =
      (((a.putDown j e x).reportSuccess (some x)).modEntry e.tag
        ({ · with placed := some a.inv.gripper.holds })).ordered
        { j with stage := some (.retract .placed) } .busy .retract none := by
  have hjob : ((((a.putDown j e x).reportSuccess (some x)).modEntry e.tag
      ({ · with placed := some a.inv.gripper.holds })).seq.job) = some j :=
    (congrArg Sequencer.job ((KeepsJob.putDown a j e x).trans (.reportSuccess _ _)).seq).trans hj
  rw [State.placePlaced, State.running_of hj he, hj]
  dsimp only
  rw [hx]
  exact State.beginStage_plain hjob (.retract .placed) nofun rfl

theorem State.placeFault_retried (hr : j.retry < j.keptRetries) :
    a.placeFault = a.ordered { j with stage := some (.retract .placeFault) } .busy .retract none := by
  rw [State.placeFault, State.running_of hj he, hj]
  dsimp only
  rw [State.reportIfExhausted, if_neg (by rw [j.exhausted_iff]; omega)]
  exact State.beginStage_plain hj (.retract .placeFault) nofun rfl

theorem State.placeFault_exhausted (hr : j.keptRetries ≤ j.retry) :
    a.placeFault = (a.reportFailure (j.placeAt e) e.tag).ordered { j with stage := some (.retract .placeFault) } .busy
      .retract none := by
  rw [State.placeFault, State.running_of hj he, hj]
  dsimp only
  rw [State.reportIfExhausted, if_pos (j.exhausted_iff.2 hr)]
  exact State.beginStage_plain ((congrArg Sequencer.job (a.reportFailure_seq _ _)).trans hj) (.retract .placeFault)
    nofun rfl

end

/-- Settles O40. -/
theorem placeOutcomes : Obligations.PlaceOutcomes := by
  intro s n j e h he place wait l onward
  have hj : s.taken.seq.job = some j := h.job
  have hplaced {y : Loc} {v : State} (hy : place = some y)
      (hv : (s.taken.putDown j e y).reportSuccess (some y) = v) : Completes (.placeOutcome n .placed) s (onward v) :=
    h.place_placed ((State.placePlaced_job hj he hy).trans (by rw [hv]; rfl))
  refine ⟨fun p hy => hplaced hy (s.taken.putDown_slot j e p), fun p hy hs => hplaced hy ?_,
    fun p hy hs hm => hplaced hy ?_, fun p hy hb => hplaced hy (if_neg hb), fun p hy hb => hplaced hy (if_pos hb),
    fun hlt => h.place_fault (State.placeFault_retried hj he hlt),
    fun hle => h.place_fault (State.placeFault_exhausted hj he hle)⟩
  · refine (s.taken.putDown_cell j e p).trans ?_
    have hknown : s.taken.port.state = .secured ∨ s.taken.port.mark = .running := hs
    simp only [if_pos hknown]
    rfl
  · refine (s.taken.putDown_cell j e p).trans ?_
    have hlost : ¬ (s.taken.port.state = .secured ∨ s.taken.port.mark = .running) := not_or.2 ⟨hs, hm⟩
    simp only [if_neg hlost]

end Sys2Proof.Machine

/-! SUPPORT. The outcomes of the RETRACT (R55, R74, R76, R78, R79, R81 to R83, R85, R86, R157). -/

namespace Sys2Proof.Machine

/-! ### O41 -/

theorem Picker.afterJob_eq (p : Picker) : p.afterJob = if p = .unhomed then .unhomed else .idle := by
  cases p <;> rfl

theorem LibMode.recorded_eq (m : LibMode) : m.recorded = if m = .maintenance then .maintenance else .ready := by
  cases m <;> rfl

/-- Giving the return path up ends the entry and enters HOLDING (R82, R157). -/
theorem State.giveUp_eq (a : State) (e : Entry) (r : Result) :
    a.giveUp e r =
      State.askAttention { a.entryDone e.tag r with ctl := { a.ctl with mode := .holding, ret := a.ctl.mode.recorded } }
        (.modeChanged (some a.ctl.mode) .holding (some a.ctl.mode.recorded) .noHome (some e.tag)) := by
  obtain ⟨q, i, b, n, l, sq, h⟩ := a.entryDone_frame e.tag r none
  rw [State.giveUp, h]
  rfl

/-- A cartridge stands at its destination, and the drive there, if any, has still to load it (R78). -/
def State.awaitsLoad (b : State) (e : Entry) : State :=
  { b.modEntry e.tag ({ · with state := .waitingDrive .load }) with seq := b.seq.endJob }

theorem State.endPlaced_noDrive (b : State) {e : Entry} {p : Nat} (h : e.dest = some (.slot p) ∨ e.dest = some (.cell p)) :
    b.endPlaced e = b.entryDone e.tag .ok := by
  rcases h with h | h <;> simp only [State.endPlaced, h]

theorem State.endPlaced_loaded (b : State) {e : Entry} {p : Nat} {r : Result} (h : e.dest = some (.bay p))
    (hr : (b.bay p).loadResult = some r) : b.endPlaced e = b.entryDone e.tag r := by
  simp only [State.endPlaced, h, hr]

theorem State.endPlaced_waits (b : State) {e : Entry} {p : Nat} (h : e.dest = some (.bay p))
    (hr : (b.bay p).loadResult = none) : b.endPlaced e = b.awaitsLoad e := by
  simp only [State.endPlaced, h, hr]
  rfl

/-- What RETRACT DONE leads to. -/
def State.afterRetract (a : State) (j : Job) (e : Entry) : RetractAfter → State
  | .pickNone => a.entryDone e.tag .sourceEmpty
  | .pickFault => a.retractPickFault j e
  | .placed => a.retractPlaced j e
  | .placeFault => a.retractPlaceFault j e

theorem State.retractPlaced_move (a : State) {j : Job} {e : Entry} (hk : e.kind = .move) (hr : j.onReturn = none) :
    a.retractPlaced j e = a.endPlaced e := by
  rw [State.retractPlaced, hr]
  dsimp only
  rw [if_neg (by rw [hk]; nofun)]

theorem State.retractPlaced_stow (a : State) {j : Job} {e : Entry} (hk : e.kind = .stow) (hr : j.onReturn = none) :
    a.retractPlaced j e = (a.leaveHolding e.tag).endPlaced e := by
  rw [State.retractPlaced, hr]
  dsimp only
  rw [if_pos hk]

theorem State.retractPlaced_home (a : State) {j : Job} {c : Cause} (e : Entry) (hr : j.onReturn = some c) :
    a.retractPlaced j e = a.entryDone e.tag c.result := by
  rw [State.retractPlaced, hr]

theorem Job.not_exhausted {j : Job} (h : j.retry < j.keptRetries) : (!j.exhausted) = true := by
  have hj : j.exhausted = false := Bool.eq_false_iff.2 fun hx => Nat.not_le.2 h (j.exhausted_iff.1 hx)
  rw [hj]
  rfl

theorem Job.is_exhausted {j : Job} (h : j.keptRetries ≤ j.retry) : ¬ (!j.exhausted) = true := by
  rw [j.exhausted_iff.2 h]
  exact Bool.false_ne_true

section
variable {a : State} {j : Job} {e : Entry}

theorem State.retractDone_job {after : RetractAfter} (hj : a.seq.job = some j) (he : JobOf a j e)
    (hs : j.stage = some (.retract after)) : a.retractDone = a.afterRetract j e after := by
  rw [State.retractDone, State.running_of hj he, hj]
  dsimp only
  rw [hs]
  cases after <;> rfl

theorem State.retractPickFault_again (h : j.retry < j.keptRetries) :
    a.retractPickFault j e = a.atBoundary (·.retryStage .pick) := if_pos (Job.not_exhausted h)

theorem State.retractPickFault_ends (h : j.keptRetries ≤ j.retry) :
    a.retractPickFault j e = a.entryDone e.tag .gripFailed := if_neg (Job.is_exhausted h)

theorem State.retractPlaceFault_again (h : j.retry < j.keptRetries) :
    a.retractPlaceFault j e = a.atBoundary (·.retryStage .place) := if_pos (Job.not_exhausted h)

theorem State.retractPlaceFault_gone (h : j.keptRetries ≤ j.retry) (hr : j.onReturn.isSome = true) :
    a.retractPlaceFault j e = a.giveUp e .placeFailedHeld :=
  (if_neg (Job.is_exhausted h)).trans (if_pos hr)

theorem State.retractPlaceFault_stow (h : j.keptRetries ≤ j.retry) (hr : j.onReturn = none) (hk : e.kind = .stow) :
    a.retractPlaceFault j e = a.entryDone e.tag .placeFailedHeld :=
  (if_neg (Job.is_exhausted h)).trans ((if_neg (by simp [hr])).trans (if_pos hk))

theorem State.retractPlaceFault_move (h : j.keptRetries ≤ j.retry) (hr : j.onReturn = none) (hk : e.kind = .move) :
    a.retractPlaceFault j e = a.callReturn e .placeFailed :=
  (if_neg (Job.is_exhausted h)).trans ((if_neg (by simp [hr])).trans (if_neg (by rw [hk]; nofun)))

end

/-- Settles O41. -/
theorem retractOutcomes : Obligations.RetractOutcomes := by
  refine ⟨Picker.afterJob_eq, fun c => ?causes, fun a e r => ?giveUp, fun a => rfl, fun s n x j e after h he => ?retract⟩
  case causes => cases c with
    | interrupted i => cases i <;> exact ⟨rfl, rfl⟩
    | placeFailed | returned | confirmTimeout => exact ⟨rfl, rfl⟩
  case giveUp =>
    intro b ret
    rw [State.giveUp_eq, LibMode.recorded_eq]
  case retract =>
    intro a again loadWait left
    have hj : a.seq.job = some j := h.job
    have hdone {u : State} (hu : a.afterRetract j e after = u) : Completes (.retractOutcome n .done x) s u :=
      h.retract_done ((State.retractDone_job hj he h.stage).trans hu)
    refine ⟨fun ha => hdone ?none, fun ha hle => hdone ?grip, fun ha hlt hk hr => ⟨fun hi => hdone ?pickAgain,
      fun i hi hp => hdone ?pickBroken⟩, fun ha hk hr => ?move, fun ha hk hr => ?stow, fun c ha hr => hdone ?home,
      fun ha hlt => ⟨fun hk hr hi => hdone ?placeAgain, fun i hk hr hi hp => hdone ?placeBroken,
        fun c hk hr => ⟨fun hh => hdone ?homeAgain, fun hh => hdone ?homeLost⟩⟩,
      fun ha hle => ⟨fun hr => hdone ?gone, fun hr hk => hdone ?heldStow, fun hr hk => hdone ?heldMove⟩,
      h.retract_fault ?fault⟩
    case none =>
      rw [ha]
      rfl
    case grip =>
      rw [ha]
      exact State.retractPickFault_ends hle
    case pickAgain =>
      rw [ha]
      refine (State.retractPickFault_again hlt).trans ((State.atBoundary_move hj he hk hr hi _).trans ?_)
      exact State.retryStage_plain hj .pick nofun
    case pickBroken =>
      rw [ha]
      exact (State.retractPickFault_again hlt).trans (State.atBoundary_broken hj he (.inl hk) hp hr hi _)
    case move =>
      have hend : a.afterRetract j e after = a.endPlaced e := by
        rw [ha]
        exact a.retractPlaced_move hk hr
      exact ⟨fun p hd => hdone (hend.trans (a.endPlaced_noDrive hd)),
        fun p r hd hl => hdone (hend.trans (a.endPlaced_loaded hd hl)),
        fun p hd hl => hdone (hend.trans (a.endPlaced_waits hd hl))⟩
    case stow =>
      have hend : a.afterRetract j e after = left.endPlaced e := by
        rw [ha]
        exact a.retractPlaced_stow hk hr
      exact ⟨fun p hd => hdone (hend.trans (left.endPlaced_noDrive hd)),
        fun p r hd hl => hdone (hend.trans (left.endPlaced_loaded hd hl)),
        fun p hd hl => hdone (hend.trans (left.endPlaced_waits hd hl))⟩
    case home =>
      rw [ha]
      exact a.retractPlaced_home e hr
    case placeAgain =>
      have hgoes : a.atBoundary (·.retryStage .place) = a.retryStage .place := by
        rcases hk with hk | hk
        · exact State.atBoundary_move hj he hk hr hi _
        · exact State.atBoundary_stow hj he hk hi _
      rw [ha]
      exact (State.retractPlaceFault_again hlt).trans (hgoes.trans (State.retryStage_plain hj .place nofun))
    case placeBroken =>
      rw [ha]
      exact (State.retractPlaceFault_again hlt).trans (State.atBoundary_broken hj he hk hp hr hi _)
    case homeAgain =>
      rw [ha]
      refine (State.retractPlaceFault_again hlt).trans ((State.atBoundary_home hj he hk hr _).trans ?_)
      exact (if_pos (show a.homeTest e = true from hh)).trans (State.retryStage_plain hj .place nofun)
    case homeLost =>
      rw [ha]
      refine (State.retractPlaceFault_again hlt).trans ((State.atBoundary_home hj he hk hr _).trans ?_)
      exact if_neg (Bool.eq_false_iff.1 hh)
    case gone =>
      rw [ha]
      exact State.retractPlaceFault_gone hle hr
    case heldStow =>
      rw [ha]
      exact State.retractPlaceFault_stow hle hr hk
    case heldMove =>
      rw [ha]
      exact (State.retractPlaceFault_move hle hr hk).trans (State.callReturn_sentHome hj he .placeFailed)
    case fault =>
      rw [State.mechanismFault_entry hj he, State.stageLocation_of hj he, h.stage]
      cases after <;> rfl

end Sys2Proof.Machine

/-! SUPPORT. The outcomes of an audit's PROBE and READ (R123 to R125, R130 to R136, R138). -/

namespace Sys2Proof.Machine

/-! ### O42 -/

theorem Audit.close_eq (a : Audit) (o : Occ) (l : Option Label) (exhausted : Bool) : a.close o l exhausted =
    { a with
      audited := a.audited + 1,
      occupied := a.occupied + (if o = .occupied ∧ exhausted = false then 1 else 0),
      changed := a.changed + (if o = a.beforeOcc ∧ l = a.beforeLabel then 0 else 1) } := by
  have hocc : (o == .occupied && !exhausted).toNat = if o = .occupied ∧ exhausted = false then 1 else 0 := by
    cases o <;> cases exhausted <;> rfl
  have hchanged : (o != a.beforeOcc || l != a.beforeLabel).toNat =
      if o = a.beforeOcc ∧ l = a.beforeLabel then 0 else 1 := by
    by_cases ho : o = a.beforeOcc <;> by_cases hl : l = a.beforeLabel <;> simp [ho, hl]
  rw [Audit.close, hocc, hchanged]

theorem State.cellsKnown_iff (v : State) : v.cellsKnown = true ↔ v.port.state = .secured ∨ v.port.mark = .running := by
  rw [State.cellsKnown, Bool.or_eq_true_iff, beq_iff_eq, beq_iff_eq]

theorem State.recordedAt_known (v : State) {x : Loc} (hx : x.isCell = true) (o : Occ) (l : Option Label) (r : Bool) :
    (v.recordedAt x o l r).cellsKnown = v.cellsKnown := by
  have hi (f : Inventory → Inventory) : (v.inventoryUpdate f).cellsKnown = v.cellsKnown := by
    obtain ⟨n, w, h⟩ := v.inventoryUpdate_frame f
    rw [h]
    rfl
  cases x with
  | cell p =>
    unfold State.recordedAt
    dsimp only
    split <;> exact hi _
  | slot | bay | gripper => cases hx

section
variable {v : State} {j : Job} {a : Audit} (hv : v.seq.job = some j) (ha : j.audit = some a)
include hv ha

theorem State.closeLocation_job (exhausted : Bool) : v.closeLocation exhausted =
    v.nextLocation (a.close (v.inv.place a.current).occ (v.inv.place a.current).holds exhausted) := by
  rw [State.closeLocation, State.audit_of hv ha]

theorem State.probeEmpty_job :
    v.probeEmpty = (v.recordedAt a.current .empty none false).atBoundary (·.closeLocation false) := by
  rw [State.probeEmpty, State.audit_of hv ha]
  dsimp only
  rw [State.applyProbe_recordedAt]

theorem State.probeOccupied_job :
    v.probeOccupied = (v.recordedAt a.current .occupied none false).atBoundary fun s =>
      if a.current.isCell && !s.cellsKnown then s.closeLocation false else s.beginStage .read := by
  rw [State.probeOccupied, State.audit_of hv ha]
  dsimp only
  rw [State.applyProbe_recordedAt]

theorem State.readTaken_audit (hs : j.stage = some .read) (l : Option Label) :
    v.readTaken l = (v.recordedAt a.current .occupied l true).atBoundary (·.closeLocation false) := by
  rw [State.readTaken, hv, Option.bind_some, hs]
  dsimp only
  rw [State.auditRead, State.audit_of hv ha]
  dsimp only
  rw [State.applyRead_recordedAt]

end

theorem State.probeFault_job {v : State} {j : Job} (hv : v.seq.job = some j) :
    v.probeFault = v.atBoundary fun s => if j.exhausted then s.closeLocation true else s.retryStage .probe := by
  rw [State.probeFault, hv]

/-- A location of a SCAN is counted, and the SCAN goes on. -/
theorem State.closeLocation_scan {v : State} {j : Job} {e : Entry} {a : Audit} (hv : v.seq.job = some j)
    (he : JobOf v j e) (ha : j.audit = some a) (exhausted : Bool) :
    v.closeLocation exhausted =
      v.scanGoesOn j e
        ⟨a.audited + 1, a.occupied + (if (v.inv.place a.current).occ = .occupied ∧ exhausted = false then 1 else 0),
          a.changed + (if (v.inv.place a.current).occ = a.beforeOcc ∧ (v.inv.place a.current).holds = a.beforeLabel
            then 0 else 1), none⟩
        a.rest := by
  rw [State.closeLocation_job hv ha, Audit.close_eq]
  exact State.nextLocation_scanGoesOn _ hv he none

/-- What the port audit records leaves the job, its audit and its entry. -/
theorem State.recordedAt_job {v : State} {j : Job} (hv : v.seq.job = some j) (x : Loc) (o : Occ) (l : Option Label)
    (r : Bool) : (v.recordedAt x o l r).seq.job = some j :=
  (congrArg Sequencer.job (v.recordedAt_frame x o l r).1).trans hv

theorem State.recordedAt_jobOf {v : State} {j : Job} {e : Entry} (he : JobOf v j e) (x : Loc) (o : Occ)
    (l : Option Label) (r : Bool) : JobOf (v.recordedAt x o l r) j e := by
  obtain ⟨hk, hf⟩ := he
  refine ⟨hk, ?_⟩
  unfold State.entry? at hf ⊢
  rw [(v.recordedAt_frame x o l r).2]
  exact hf

theorem Entry.portChange_toSecured (before : PortState) :
    Entry.portChange before .secured = fun e => if e.state = .waitingPort then { e with state := .queued } else e := by
  funext e
  simp [Entry.portChange]

/-- The port audit completes (R46, R124). -/
theorem State.completeAudit_eq (v : State) : v.completeAudit =
    (let b := v.askAttention
      (.portAudited ((List.range 6).map fun m => ((v.inv.place (.cell m)).occ, (v.inv.place (.cell m)).holds)))
    { b with
      seq := b.seq.endJob, port := ⟨.secured, true, .noMark⟩,
      queue :=
        { b.queue with
          entries := b.queue.entries.map fun e =>
            if e.state = .waitingPort then { e with state := .queued } else e } }) := by
  rw [State.completeAudit]
  unfold State.setPort
  dsimp only
  rw [Entry.portChange_toSecured]

section
variable {v : State} {j : Job} {a : Audit} (hv : v.seq.job = some j) (hk : j.kind = .portAudit)
include hv hk

theorem State.nextLocation_lastCell {b : Audit} (hb : b.rest = []) : v.nextLocation b = v.completeAudit := by
  rw [State.nextLocation, hv]
  dsimp only
  rw [hk, hb]
  rfl

theorem State.nextLocation_cell {b : Audit} {m : Nat} {rs : List Loc} (hb : b.rest = .cell m :: rs) :
    v.nextLocation b =
      v.ordered
        { j with
          stage := some (.travel .scan),
          audit := some
            { b with
              current := .cell m, rest := rs, byOrders := true, beforeOcc := (v.inv.place (.cell m)).occ,
              beforeLabel := (v.inv.place (.cell m)).holds } }
        .busy .travel (some (.cell m)) := by
  have hnext : v.nextLocation b =
      (v.modJob ({ · with audit := some (v.arrive true b (.cell m) rs) })).beginStage (.travel .scan) := by
    rw [State.nextLocation, hv]
    dsimp only
    rw [hk, hb]
    rfl
  exact hnext.trans (State.beginStage_nextLocation (v.arrive true b (.cell m) rs) hv)

end

/-- What the port audit does once a cell is counted. -/
theorem State.closes_portAudit {c : Instr} {s v : State} {j : Job} {a : Audit} {p : Nat} {exhausted : Bool}
    (hv : v.seq.job = some j) (hk : j.kind = .portAudit) (ha : j.audit = some a) (hp : a.current = .cell p)
    (hc : ∀ u, v.atBoundary (·.closeLocation exhausted) = u → Completes c s u) :
    let r := v.inv.place (.cell p)
    (j.interruption.isSome = true →
      Completes c s { v with seq := { v.seq with job := none, picker := v.seq.picker.afterJob } })
    ∧ (j.interruption = none → a.rest = [] → Completes c s v.completeAudit)
    ∧ ∀ m rs, j.interruption = none → a.rest = .cell m :: rs →
      Completes c s
        (v.ordered
          { j with
            stage := some (.travel .scan),
            audit := some
              { current := .cell m, rest := rs, byOrders := true, beforeOcc := (v.inv.place (.cell m)).occ,
                beforeLabel := (v.inv.place (.cell m)).holds, audited := a.audited + 1,
                occupied := a.occupied + (if r.occ = .occupied ∧ exhausted = false then 1 else 0),
                changed := a.changed + (if r.occ = a.beforeOcc ∧ r.holds = a.beforeLabel then 0 else 1) } }
          .busy .travel (some (.cell m))) := by
  have hclose (hi : j.interruption = none) :
      v.atBoundary (·.closeLocation exhausted) =
        v.nextLocation (a.close (v.inv.place (.cell p)).occ (v.inv.place (.cell p)).holds exhausted) := by
    rw [State.atBoundary_audits hv hk hi, State.closeLocation_job hv ha, hp]
  refine ⟨fun hi => hc _ (State.atBoundary_struck hv hk hi _), fun hi hr => hc _ ((hclose hi).trans ?_),
    fun m rs hi hr => hc _ ((hclose hi).trans ?_)⟩
  · exact State.nextLocation_lastCell hv hk hr
  · rw [Audit.close_eq]
    exact State.nextLocation_cell hv hk hr

/-- Settles O42. -/
theorem auditOutcomes : Obligations.AuditOutcomes := by
  refine ⟨fun s n j e a he hk ha => ?scan, fun s n j a p hk ha hp => ?port⟩
  case scan =>
    intro closed lost
    have hclosed {c : Instr} {v : State} {exhausted : Bool} (hv : v.seq.job = some j) (hof : JobOf v j e)
        (hc : ∀ u, v.atBoundary (·.closeLocation exhausted) = u → Completes c s u) : closed c v exhausted :=
      hc _ ((State.atBoundary_scan hv hof hk _).trans (State.closeLocation_scan hv hof ha exhausted))
    have hof (o : Occ) (l : Option Label) (r : Bool) : JobOf (s.taken.recordedAt a.current o l r) j e :=
      State.recordedAt_jobOf (v := s.taken) he _ _ _ _
    refine ⟨fun h => ?probe, fun h => ?read⟩
    case probe =>
      have hj : s.taken.seq.job = some j := h.job
      have hv (o : Occ) : (s.taken.recordedAt a.current o none false).seq.job = some j :=
        State.recordedAt_job hj _ _ _ _
      have hlost : (a.current.isCell && !(s.taken.recordedAt a.current .occupied none false).cellsKnown) = true ↔
          lost := by
        rw [Bool.and_eq_true_iff, Bool.not_eq_true']
        refine and_congr_right fun hx => ?_
        rw [State.recordedAt_known _ hx, Bool.eq_false_iff, Ne, State.cellsKnown_iff, not_or]
        exact Iff.rfl
      have hoccupied := (State.probeOccupied_job hj ha).trans (State.atBoundary_scan (hv _) (hof _ _ _) hk _)
      have hfault := (State.probeFault_job hj).trans (State.atBoundary_scan (s := s.taken) hj he hk _)
      refine ⟨hclosed (hv _) (hof _ _ _) fun u hu => h.probe_empty ((State.probeEmpty_job hj ha).trans hu),
        fun hl => h.probe_occupied (hoccupied.trans ?_), fun hl => h.probe_occupied (hoccupied.trans ?_),
        fun hlt => h.probe_fault (hfault.trans ?_), fun hle => h.probe_fault (hfault.trans ?_)⟩
      · exact (if_neg (mt hlost.1 hl)).trans (State.beginStage_plain (hv _) .read nofun rfl)
      · exact (if_pos (hlost.2 hl)).trans (State.closeLocation_scan (hv _) (hof _ _ _) ha false)
      · exact (if_neg (mt j.exhausted_iff.1 (Nat.not_le.2 hlt))).trans (State.retryStage_plain hj .probe nofun)
      · exact (if_pos (j.exhausted_iff.2 hle)).trans (State.closeLocation_scan (v := s.taken) hj he ha true)
    case read =>
      have hj : s.taken.seq.job = some j := h.job
      have hread (l : Option Label) := State.readTaken_audit hj ha h.stage l
      have hv (l : Option Label) : (s.taken.recordedAt a.current .occupied l true).seq.job = some j :=
        State.recordedAt_job hj _ _ _ _
      exact ⟨fun l hl => hclosed (hv _) (hof _ _ _) fun u hu => h.read_label hl ((hread _).trans hu),
        hclosed (hv _) (hof _ _ _) fun u hu => h.read_noRead ((hread _).trans hu)⟩
  case port =>
    intro ends closed
    have hclosed {c : Instr} {v : State} {exhausted : Bool} (hv : v.seq.job = some j)
        (hc : ∀ u, v.atBoundary (·.closeLocation exhausted) = u → Completes c s u) : closed c v exhausted := by
      obtain ⟨hends, hlast, hnext⟩ := State.closes_portAudit hv hk ha hp hc
      refine ⟨hends, fun hi hr => ?_, hnext⟩
      have h := hlast hi hr
      rw [v.completeAudit_eq] at h
      exact h
    refine ⟨fun h => ?probe, fun h => ?read⟩
    case probe =>
      have hj : s.taken.seq.job = some j := h.job
      have hv (o : Occ) : (s.taken.recordedAt (.cell p) o none false).seq.job = some j :=
        State.recordedAt_job hj _ _ _ _
      have hempty := State.probeEmpty_job hj ha
      have hoccupied := State.probeOccupied_job hj ha
      rw [hp] at hempty hoccupied
      have hknown (hs : s.port.state = .secured ∨ s.port.mark = .running) :
          ¬ ((Loc.cell p).isCell && !(s.taken.recordedAt (.cell p) .occupied none false).cellsKnown) = true := by
        rw [State.recordedAt_known _ rfl, (State.cellsKnown_iff s.taken).2 hs]
        exact Bool.false_ne_true
      refine ⟨hclosed (hv _) fun u hu => h.probe_empty (hempty.trans hu),
        fun hi hs => h.probe_occupied (hoccupied.trans ?_), fun hi => h.probe_occupied (hoccupied.trans ?_),
        fun hi hlt => h.probe_fault ((State.probeFault_job hj).trans ?_),
        fun hi => h.probe_fault ((State.probeFault_job hj).trans ?_), fun hle => hclosed hj fun u hu => h.probe_fault ?_⟩
      · refine (State.atBoundary_audits (hv _) hk hi _).trans ((if_neg (hknown hs)).trans ?_)
        exact State.beginStage_plain (hv _) .read nofun rfl
      · exact State.atBoundary_struck (hv _) hk hi _
      · refine (State.atBoundary_audits hj hk hi _).trans ?_
        exact (if_neg (mt j.exhausted_iff.1 (Nat.not_le.2 hlt))).trans (State.retryStage_plain hj .probe nofun)
      · exact State.atBoundary_struck hj hk hi _
      · rw [State.probeFault_job hj, ← hu, j.exhausted_iff.2 hle]
        rfl
    case read =>
      have hj : s.taken.seq.job = some j := h.job
      have hread (l : Option Label) := State.readTaken_audit hj ha h.stage l
      rw [hp] at hread
      have hv (l : Option Label) : (s.taken.recordedAt (.cell p) .occupied l true).seq.job = some j :=
        State.recordedAt_job hj _ _ _ _
      exact ⟨fun l hl => hclosed (hv _) fun u hu => h.read_label hl ((hread _).trans hu),
        hclosed (hv _) fun u hu => h.read_noRead ((hread _).trans hu)⟩

end Sys2Proof.Machine

/-! SUPPORT. The stage timer, and outcomes that answer no order (R64 to R66). -/

namespace Sys2Proof.Machine

/-! ### O45 -/

theorem State.stageLength_eq (s : State) (k : OrderKind) : s.stageLength k =
    if k = .home then 4 * s.params.stageLimit else if k = .read then 1000 else s.params.stageLimit := by
  cases k <;> rfl

theorem State.stageLength_other (s : State) {k : OrderKind} (hh : k ≠ .home) (hr : k ≠ .read) :
    s.stageLength k = s.params.stageLimit := by
  rw [s.stageLength_eq, if_neg hh, if_neg hr]

/-- Two effects that agree at a state end its event alike. -/
theorem State.event_congr {s : State} {f g : State → State} (h : f s = g s) : s.event f = s.event g := by
  unfold State.event
  rw [h]

/-- The lines' levels have no part in the choices that end an event. -/
theorem State.event_sample {s : State} (hp : s.powered = true) (x : Sense) (f : State → State) :
    (s.sample x).event f = s.event fun s => f (s.sample x) := by
  have hsettle (u : State) : State.settle (s.sample x) u = State.settle s u := by
    unfold State.settle State.choose
    rw [show State.choiceDue (s.sample x) = State.choiceDue s from rfl]
  rw [State.event_powered (s := s.sample x) hp, State.event_powered hp, hsettle]

section
variable {s : State} {n : Byte} {k : OrderKind} {y : Option Loc} (h : s.mech.outstanding = some ⟨n, k, y⟩)
include h

theorem State.takeOutcome_taken {o : MechOutcome} (ho : k.allows o = true) (go : State → State) :
    s.takeOutcome k n o go = go s.taken := by
  have ha : s.answers k n o = true := by
    rw [State.answers, h]
    dsimp only
    rw [ho, beq_self_eq_true, beq_self_eq_true]
    rfl
  exact if_pos ha

/-- The expiry of the stage timer, in terms of its order's kind. -/
theorem exec_stageTimerExpiry (x : Sense) :
    exec (.stageTimerExpiry x) s = s.event fun s => (s.taken.sample x).expired k := by
  dsimp only [exec]
  unfold execStageTimerExpiry
  refine State.event_congr ?_
  rw [h]
  rfl

/-- An expiry is a FAULT of the order. -/
theorem State.expiry_outcome {x : Sense} {c : Instr} {o : MechOutcome} {go : State → State}
    (hc : exec c s = s.event fun s => s.takeOutcome k n o go) (ho : k.allows o = true)
    (hgo : (s.taken.sample x).expired k = go s.taken) : exec (.stageTimerExpiry x) s = exec c s := by
  rw [exec_stageTimerExpiry h, hc]
  exact State.event_congr (hgo.trans (State.takeOutcome_taken h ho go).symm)

/-- An expiry is an outcome of the order whose command samples no lines: they are sampled before it. -/
theorem State.expiry_sampled (hp : s.powered = true) {x : Sense} {c : Instr} {o : MechOutcome} {go : State → State}
    (hc : exec c (s.sample x) = (s.sample x).event fun s => s.takeOutcome k n o go) (ho : k.allows o = true)
    (hgo : (s.taken.sample x).expired k = go (s.sample x).taken) :
    exec (.stageTimerExpiry x) s = exec c (s.sample x) := by
  rw [exec_stageTimerExpiry h, hc, State.event_sample hp]
  exact State.event_congr (hgo.trans (State.takeOutcome_taken (s := s.sample x) h ho go).symm)

end

theorem State.stale {s : State} {k : OrderKind} {n : Byte} {o : MechOutcome} (hp : s.powered = true)
    (h : ∀ x, s.mech.outstanding = some ⟨n, k, x⟩ → k.allows o = false) (go : State → State) :
    (s.event fun s => s.takeOutcome k n o go) = .next { s with link := s.link.startNext } := by
  have ha : s.answers k n o = false := by
    rw [State.answers]
    split
    next r hr =>
      obtain ⟨n', k', x⟩ := r
      by_cases hn : n' = n
      · by_cases hk : k' = k
        · subst hn hk
          rw [h x hr, Bool.and_false]
        · rw [beq_false_of_ne hk, Bool.and_false, Bool.false_and]
      · rw [beq_false_of_ne hn, Bool.false_and, Bool.false_and]
    next => rfl
  rw [State.event_powered hp]
  exact congrArg Host.Outcome.next
    ((congrArg (State.settle s) (if_neg (Bool.eq_false_iff.1 ha))).trans s.settle_same)

/-- A LABEL whose text is no label reads nothing (R64). -/
theorem outcomeLabel_unfit {l : List Byte}
    (h : l = [] ∨ 16 < l.length ∨ (∃ b ∈ l, b.toNat < 0x20 ∨ 0x7E < b.toNat)) : outcomeLabel (.label l) = none := by
  refine if_neg fun ⟨hne, hlen, hall⟩ => ?_
  rcases h with h | h | ⟨b, hb, hr⟩
  · exact hne h
  · exact Nat.not_le.2 h hlen
  · have hb' := List.all_eq_true.1 hall b hb
    simp only [Bool.and_eq_true, decide_eq_true_eq] at hb'
    omega

theorem State.takeOutcome_read (s : State) (n : Byte) (l : List Byte) (go : State → State) :
    s.takeOutcome .read n (.label l) go = s.takeOutcome .read n .noRead go := by
  have ha : s.answers .read n (.label l) = s.answers .read n .noRead := by
    unfold State.answers
    cases s.mech.outstanding <;> rfl
  unfold State.takeOutcome
  rw [ha]

theorem exec_label_unfit {l : List Byte} (n : Byte) (s : State)
    (h : l = [] ∨ 16 < l.length ∨ (∃ b ∈ l, b.toNat < 0x20 ∨ 0x7E < b.toNat)) :
    exec (.readOutcome n (.label l)) s = exec (.readOutcome n .noRead) s := by
  dsimp only [exec]
  unfold execReadOutcome
  refine State.event_congr ?_
  rw [State.takeOutcome_read, outcomeLabel_unfit h]
  rfl

/-- An outcome that does not answer the outstanding order is discarded (R66). -/
theorem exec_stale {c : Instr} {k : OrderKind} {n : Byte} {o : MechOutcome} {s : State} (hp : s.powered = true)
    (hc : outcomeOf c = some (k, n, o)) (h : ∀ x, s.mech.outstanding = some ⟨n, k, x⟩ → k.allows o = false) :
    exec c s = .next { s with link := s.link.startNext } := by
  cases c with
  | homeOutcome | travelOutcome | pickOutcome | placeOutcome | retractOutcome | probeOutcome | readOutcome | parkOutcome
  | unparkOutcome =>
    cases hc
    exact State.stale hp h _
  | _ => cases hc

/-- Settles O45. -/
theorem expiriesAndStaleOutcomes : Obligations.ExpiriesAndStaleOutcomes := by
  refine ⟨fun s x => ⟨fun k => rfl, s.stageLength_eq, rfl, rfl, fun k hh hr => congrArg some (s.stageLength_other hh hr)⟩,
    fun s n x y k hp h => ?_, fun c k n o s => exec_stale, fun n l s => exec_label_unfit n s⟩
  refine ⟨⟨_, (exec_stageTimerExpiry h x).trans (State.event_powered hp _)⟩, ?_, ?_, ?_, ?_, ?_, ?_, ?_, ?_, ?_⟩
  · rintro rfl
    exact State.expiry_outcome h (o := .fault) rfl rfl rfl
  · rintro rfl
    exact State.expiry_outcome h (o := .fault) rfl rfl rfl
  · rintro rfl
    exact State.expiry_outcome h (o := .fault) rfl rfl rfl
  · rintro rfl
    exact State.expiry_outcome h (o := .fault) rfl rfl rfl
  · rintro rfl
    exact State.expiry_outcome h (o := .fault) rfl rfl rfl
  · rintro rfl
    exact State.expiry_sampled h hp (o := .fault) rfl rfl rfl
  · rintro rfl
    exact State.expiry_sampled h hp (o := .fault) rfl rfl rfl
  · rintro rfl
    exact State.expiry_sampled h hp (o := .fault) rfl rfl rfl
  · rintro rfl
    exact State.expiry_sampled h hp (o := .noRead) rfl rfl rfl

end Sys2Proof.Machine

/-! SUPPORT. The door, and what its opening disturbs (R46, R97, R118 to R121, R125, R135). -/

namespace Sys2Proof.Machine

/-! ### An event that disturbs the entry with the picker (R74, R97) -/

theorem State.running_none {v : State} (h : v.seq.job = none) : v.running? = none := by
  rw [State.running?, h]

theorem State.running_internal {v : State} {j : Job} (hv : v.seq.job = some j)
    (hk : j.kind = .parking ∨ j.kind = .homing true ∨ j.kind = .homing false) : v.running? = none := by
  rw [State.running?, hv]
  dsimp only
  rcases hk with hk | hk | hk <;> rw [hk]

section
variable {v : State} {p : Loc → Bool} {i : Interruption}

theorem State.disturb_none (h : v.running? = none) : v.disturb p i = v := by
  rw [State.disturb, h]

theorem State.disturb_spared {e : Entry} (h : v.running? = some e) (hs : e.kind = .scan ∨ e.names.any p = false) :
    v.disturb p i = v := by
  rw [State.disturb, h]
  refine if_neg fun ⟨hk, hn⟩ => ?_
  rcases hs with hs | hs
  · exact hk hs
  · rw [hs] at hn
    exact Bool.false_ne_true hn

variable {j : Job} {e : Entry} (hv : v.seq.job = some j) (he : JobOf v j e) (hk : e.kind ≠ .scan)
  (hn : e.names.any p = true)
include hv he hk hn

theorem State.disturb_running (hs : e.state = .running) :
    v.disturb p i = v.modJob fun j => { j with interruption := j.interruption.or (some i) } := by
  rw [State.disturb, State.running_of hv he]
  exact (if_pos ⟨hk, hn⟩).trans (if_neg (by rw [hs]; nofun))

theorem State.disturb_awaiting (hs : e.state = .awaitingConfirm) :
    v.disturb p i = v.endHandOff.sentHome j e (.interrupted i) (Cause.interrupted i).noHome none := by
  rw [State.disturb, State.running_of hv he]
  refine (if_pos ⟨hk, hn⟩).trans ((if_pos hs).trans ?_)
  exact State.callReturn_sentHome (s := v.endHandOff) hv he (.interrupted i)

end

/-! ### O50 -/

theorem Entry.portChange_identity (before after : PortState) (e : Entry) :
    (e.portChange before after).tag = e.tag ∧ (e.portChange before after).kind = e.kind
      ∧ (e.portChange before after).names = e.names := by
  unfold Entry.portChange
  split
  · exact ⟨rfl, rfl, rfl⟩
  · split <;> exact ⟨rfl, rfl, rfl⟩

theorem Entry.portChange_held (before after : PortState) {e : Entry} (ha : after ≠ .secured) (hs : e.state ≠ .queued) :
    e.portChange before after = e := by
  rw [Entry.portChange, if_neg (fun h => hs h.2.2.1), if_neg (fun h => ha h.1)]

theorem Entry.portChange_inside (before after : PortState) {e : Entry} (ha : after ≠ .secured)
    (hp : e.isPort = false) : e.portChange before after = e := by
  rw [Entry.portChange, if_neg (fun h => Bool.eq_false_iff.1 hp h.2.2.2), if_neg (fun h => ha h.1)]

/-- `v` has the job of `s`, and its entries as a change of the port's state has left them. -/
structure PortMoved (s v : State) : Prop where
  seq : v.seq = s.seq
  entries : v.queue.entries = s.queue.entries.map (Entry.portChange s.port.state .opened)

theorem PortMoved.jobOf {s v : State} (h : PortMoved s v) {j : Job} {e : Entry} (he : JobOf s j e) :
    JobOf v j (e.portChange s.port.state .opened) := by
  obtain ⟨hk, hf⟩ := he
  have htag (x : Entry) : (x.portChange s.port.state .opened).tag = x.tag := (x.portChange_identity _ _).1
  refine ⟨hk.trans (by rw [htag]), ?_⟩
  rw [State.entry?_map htag h.entries, htag, hf]
  rfl

theorem State.modJob_congr {v : State} {f g : Job → Job} (h : ∀ j, v.seq.job = some j → f j = g j) :
    v.modJob f = v.modJob g := by
  have hmap : v.seq.job.map f = v.seq.job.map g := Option.map_congr fun j hj => h j (by simpa using hj)
  rw [State.modJob, State.modJob, hmap]

theorem State.modJob_id {v : State} : v.modJob id = v := by
  rw [State.modJob, Option.map_id_fun]
  rfl

theorem State.portTags_none {s : State} (h : s.running? = none) : s.portTags = [] := by
  rw [State.portTags, h]

theorem State.portTags_inside {s : State} {e : Entry} (h : s.running? = some e) (hp : e.isPort = false) :
    s.portTags = [] := by
  rw [State.portTags, h]
  exact if_neg (Bool.eq_false_iff.1 hp)

theorem State.portTags_port {s : State} {e : Entry} (h : s.running? = some e) (hp : e.isPort = true) :
    s.portTags = [e.tag] := by
  rw [State.portTags, h]
  exact if_pos hp

theorem State.doorOpening_completes {s u : State} (hp : s.powered = true)
    (hu : { s with pins := { s.pins with doorOpen := true } }.doorOpens = u) : Completes .doorOpening s u := by
  unfold Completes
  dsimp only [exec]
  exact State.event_completes hp hu

theorem State.doorClosing_completes {s u : State} (hp : s.powered = true)
    (hu : { s with pins := { s.pins with doorOpen := false } }.doorCloses = u) : Completes .doorClosing s u := by
  unfold Completes
  dsimp only [exec]
  exact State.event_completes hp hu

/-- What an opening of a closed door disturbs: nobody, a running port audit, or the entry with the picker. -/
theorem State.opening_disturbs {s : State} (hp : s.powered = true) {a : List Tag → State} {audit told : State → State}
    (hopens : { s with pins := { s.pins with doorOpen := true } }.doorOpens
      = (told (a s.portTags)).disturb Loc.isCell .portDisturbed)
    (hm : ∀ ts, PortMoved s (a ts))
    (hkeep : ∀ v : State, (∀ j, v.seq.job = some j → j.kind ≠ .portAudit) → told v = v)
    (haudit : ∀ (v : State) j, v.seq.job = some j → j.kind = .portAudit → told v = audit v ∧ (audit v).running? = none) :
    let tell (v : State) : State := v.modJob fun j => { j with interruption := j.interruption.or (some .portDisturbed) }
    (s.seq.job = none → Completes .doorOpening s (a []))
    ∧ (∀ j, s.seq.job = some j → j.kind = .parking ∨ j.kind = .homing true ∨ j.kind = .homing false →
      Completes .doorOpening s (a []))
    ∧ (∀ j, s.seq.job = some j → j.kind = .portAudit → Completes .doorOpening s (audit (a [])))
    ∧ ∀ e j, s.seq.job = some j → JobOf s j e →
      (e.isPort = false → Completes .doorOpening s (a []))
      ∧ (e.isPort = true → e.kind = .scan → Completes .doorOpening s (a [e.tag]))
      ∧ (e.isPort = true → e.kind ≠ .scan → e.state = .running → Completes .doorOpening s (tell (a [e.tag])))
      ∧ (e.isPort = true → e.kind ≠ .scan → e.state = .awaitingConfirm →
        Completes .doorOpening s
          ((a [e.tag]).endHandOff.sentHome j e (.interrupted .portDisturbed) .portDisturbed none)) := by
  intro tell
  have hopen {u : State} (hu : (told (a s.portTags)).disturb Loc.isCell .portDisturbed = u) :
      Completes .doorOpening s u := State.doorOpening_completes hp (hopens.trans hu)
  have hjob (ts : List Tag) : (a ts).seq.job = s.seq.job := congrArg Sequencer.job (hm ts).seq
  refine ⟨fun hj => hopen ?none, fun j hj hk => hopen ?internal, fun j hj hk => hopen ?audit,
    fun e j hj he => ?entry⟩
  case none =>
    rw [State.portTags_none (State.running_none hj), hkeep _ fun j h => by rw [hjob, hj] at h; cases h]
    exact State.disturb_none (State.running_none ((hjob _).trans hj))
  case internal =>
    have hne : ∀ i, (a []).seq.job = some i → i.kind ≠ .portAudit := fun i h => by
      obtain rfl : j = i := Option.some.inj (hj.symm.trans ((hjob _).symm.trans h))
      rcases hk with hk | hk | hk <;> rw [hk] <;> nofun
    rw [State.portTags_none (State.running_internal hj hk), hkeep _ hne]
    exact State.disturb_none (State.running_internal ((hjob _).trans hj) hk)
  case audit =>
    obtain ⟨htold, hnone⟩ := haudit (a []) j ((hjob _).trans hj) hk
    rw [State.portTags_none (State.running_portAudit hj hk), htold]
    exact State.disturb_none hnone
  case entry =>
    have hrun := State.running_of hj he
    have hv (ts : List Tag) : (a ts).seq.job = some j := (hjob ts).trans hj
    have hof (ts : List Tag) := (hm ts).jobOf he
    have htold (ts : List Tag) : told (a ts) = a ts := hkeep _ fun i h => by
      obtain rfl : j = i := Option.some.inj ((hv ts).symm.trans h)
      rw [he.1]
      nofun
    have hheld (hs : e.state ≠ .queued) (ts : List Tag) : JobOf (a ts) j e :=
      Entry.portChange_held s.port.state .opened nofun hs ▸ hof ts
    refine ⟨fun hq => hopen ?_, fun hq hk => hopen ?_, fun hq hk hs => hopen ?_, fun hq hk hs => hopen ?_⟩
    · rw [State.portTags_inside hrun hq, htold]
      refine State.disturb_spared (State.running_of (hv _) (hof _)) (.inr ?_)
      rw [(e.portChange_identity _ _).2.2]
      exact hq
    · rw [State.portTags_port hrun hq, htold]
      refine State.disturb_spared (State.running_of (hv _) (hof _)) (.inl ?_)
      rw [(e.portChange_identity _ _).2.1]
      exact hk
    · rw [State.portTags_port hrun hq, htold]
      exact State.disturb_running (hv _) (hheld (by rw [hs]; nofun) _) hk hq hs
    · rw [State.portTags_port hrun hq, htold]
      exact State.disturb_awaiting (hv _) (hheld (by rw [hs]; nofun) _) hk hq hs

/-- The cells' records and the notice leave the job and the entries. -/
theorem portMoved_of {s v : State} (hq : v.seq = s.seq)
    (he : v.queue.entries = s.queue.entries.map (Entry.portChange s.port.state .opened)) (f : Inventory → Inventory)
    (m : Attention) : PortMoved s ((v.inventoryUpdate f).askAttention m) := by
  obtain ⟨n, l, ha⟩ := (v.inventoryUpdate f).askAttention_frame m
  obtain ⟨n', l', hi⟩ := v.inventoryUpdate_frame f
  rw [ha, hi]
  exact ⟨hq, he⟩

theorem State.doorOpens_free {s : State} (h : s.port.state = .released ∨ s.port.state = .closed) :
    s.doorOpens = s.openDoor := by
  rcases h with h | h <;> simp only [State.doorOpens, h]

theorem State.doorOpens_locked {s : State} (h : s.port.state = .secured ∨ s.port.state = .auditPending) :
    s.doorOpens = s.forceDoor := by
  rcases h with h | h <;> simp only [State.doorOpens, h]

/-- Settles O50. -/
theorem doorEvents : Obligations.DoorEvents := by
  refine ⟨fun before after e => rfl, fun s hp => ?_⟩
  intro moved opened tell disturbs
  have hmoved (p : Port) (hs : p.state = .opened) (m : List Tag → Attention) (ts : List Tag) :
      PortMoved s (opened p m ts) := portMoved_of (s := s) (v := moved p true) rfl (by rw [← hs]) _ _
  refine ⟨fun hs => ?free, fun hs => ?locked, fun hs => ?stands⟩
  case free =>
    refine State.opening_disturbs hp (told := id) ?_ (hmoved _ rfl _) (fun v _ => rfl)
      fun v j hj hk => ⟨rfl, State.running_portAudit hj hk⟩
    refine (State.doorOpens_free (s := { s with pins := { s.pins with doorOpen := true } }) hs).trans ?_
    unfold State.openDoor State.setPort State.unknowCells
    rfl
  case locked =>
    refine State.opening_disturbs hp (told := State.disturbAudit) ?_ (hmoved _ rfl _) (fun v h => ?_)
      fun v j hj hk => ⟨?_, State.running_portAudit (State.modJob_job hj _) hk⟩
    · refine (State.doorOpens_locked (s := { s with pins := { s.pins with doorOpen := true } }) hs).trans ?_
      unfold State.forceDoor State.setPort State.unknowCells
      rfl
    · exact (State.modJob_congr fun j hj => if_neg (h j hj)).trans State.modJob_id
    · refine State.modJob_congr fun i hi => ?_
      obtain rfl : j = i := Option.some.inj (hj.symm.trans hi)
      exact if_pos hk
  case stands =>
    refine ⟨State.doorOpening_completes hp ?_, fun hr => State.doorClosing_completes hp ?_,
      fun hr => State.doorClosing_completes hp ?_⟩
    · simp only [State.doorOpens, hs]
    · exact (if_neg (not_not.2 hs)).trans (if_pos hr)
    · exact (if_neg (not_not.2 hs)).trans (if_neg (Bool.eq_false_iff.1 hr))

end Sys2Proof.Machine

/-! SUPPORT. The drives' lines (R8, R46, R97, R102 to R104, R106, R108, R110). -/

namespace Sys2Proof.Machine

/-! ### The lines, and the bay monitor's update -/

theorem driveAt_samplePins (p : Pins) (x : Sense) (n : Nat) :
    driveAt (samplePins p x).drives n = ⟨(driveAt p.drives n).present, driveAt x.drives n⟩ := by
  match n with
  | 0 | 1 | 2 | _ + 3 => rfl

theorem driveAt_driveModify {α : Type} (q : Quad α) (i : Fin 4) (f : α → α) {n : Nat} (hn : n < 4) :
    driveAt (driveModify q i f) n = if n = i.val then f (driveAt q n) else driveAt q n := by
  match i, n, hn with
  | 0, 0, _ | 0, 1, _ | 0, 2, _ | 0, 3, _ | 1, 0, _ | 1, 1, _ | 1, 2, _ | 1, 3, _ | 2, 0, _ | 2, 1, _ | 2, 2, _ | 2, 3, _
  | 3, 0, _ | 3, 1, _ | 3, 2, _ | 3, 3, _ => rfl

theorem State.driveAt_lines (s : State) (i : Fin 4) (f : DrivePins → DrivePins) :
    driveAt (s.lines i f).pins.drives i = f (driveAt s.pins.drives i) :=
  (driveAt_driveModify _ i f i.isLt).trans (if_pos rfl)

theorem State.bayUpdate_eq (s : State) (n : Nat) (st : BayState) (l : Option Label) (more : Inventory → Inventory) :
    s.bayUpdate n st l more =
      State.inventoryUpdate
        { s with
          bays := s.bays.modify n fun b =>
            { b with
              state := st, eject := b.eject && st == .ejecting,
              loadTimer := if st = .loading then b.loadTimer else none,
              ejectTimer := if st = .ejecting then b.ejectTimer else none } }
        fun v => more (v.put (.bay n) (if st = .absent ∨ st = .empty then .empty else .occupied) l) := by
  rw [← BayState.occ_eq]
  rfl

theorem State.bay_bayUpdate (s : State) (n : Nat) (st : BayState) (l : Option Label) (more : Inventory → Inventory) :
    ((s.bayUpdate n st l more).bay n).waiting = (s.bay n).waiting
      ∧ ((s.bayUpdate n st l more).bay n).loadResult = (s.bay n).loadResult := by
  obtain ⟨a, w, h⟩ := s.bayUpdate_frame n st l more
  rw [h]
  unfold State.bay
  dsimp only
  rw [List.getD_eq_getElem?_getD, List.getD_eq_getElem?_getD, List.getElem?_modify_eq]
  cases s.bays[n]? <;> exact ⟨rfl, rfl⟩

theorem State.modBay_congr {v : State} {n : Nat} {f g : Bay → Bay} (h : ∀ b, v.bays[n]? = some b → f b = g b) :
    v.modBay n f = v.modBay n g := by
  have hb : v.bays.modify n f = v.bays.modify n g := by
    refine List.ext_getElem? fun m => ?_
    rw [List.getElem?_modify, List.getElem?_modify]
    by_cases hm : n = m
    · subst hm
      cases hb : v.bays[n]? with
      | none => rfl
      | some b => simp [h b hb]
    · simp [hm]
  exact congrArg (fun x => { v with bays := x }) hb

theorem State.bay_of_getElem {v : State} {n : Nat} {b : Bay} (h : v.bays[n]? = some b) : v.bay n = b := by
  rw [State.bay, List.getD_eq_getElem?_getD, h]
  rfl

/-! ### PRESENT -/

theorem State.insertDrive_dropped {s : State} {n : Nat} (h : (s.bay n).loadResult = none) {st : BayState}
    (hs : s.derivedBay n = st) :
    s.insertDrive n =
      State.askAttention ((s.bayUpdate n st none).modBay n fun b => { b with waiting := none })
        (.driveInserted n st) := by
  unfold State.insertDrive
  rw [hs]
  refine congrArg (fun v => State.askAttention v (.driveInserted n st)) (State.modBay_congr fun b hb => ?_)
  have hr : b.loadResult = none := by
    rw [← State.bay_of_getElem hb, (s.bay_bayUpdate n st none id).2, h]
  exact if_neg (by rw [hr]; exact Bool.false_ne_true)

theorem State.insertDrive_kept {s : State} {n : Nat} (h : (s.bay n).loadResult.isSome = true) {st : BayState}
    (hs : s.derivedBay n = st) : s.insertDrive n = (s.bayUpdate n st none).askAttention (.driveInserted n st) := by
  unfold State.insertDrive
  rw [hs]
  refine congrArg (fun v => State.askAttention v (.driveInserted n st)) ?_
  have hid : (s.bayUpdate n st none).modBay n Bay.inserted = (s.bayUpdate n st none).modBay n id := by
    refine State.modBay_congr fun b hb => if_pos ?_
    rw [← State.bay_of_getElem hb, (s.bay_bayUpdate n st none id).2]
    exact h
  rw [hid]
  exact congrArg (fun x => { s.bayUpdate n st none with bays := x }) (List.modify_id n _)

theorem State.settleRemoved_waiting {s : State} {t : Tag} {e : Entry} (h : s.entry? t = some e) {v : DriveWait}
    (he : e.state = .waitingDrive v) (n : Nat) : s.settleRemoved n t = s.entryDone t .driveRemoved := by
  rw [State.settleRemoved, h]
  dsimp only
  rw [he]

theorem State.settleRemoved_running {s : State} {t : Tag} {e : Entry} (h : s.entry? t = some e)
    (he : e.state = .running) (n : Nat) :
    s.settleRemoved n t = s.modBay n fun b => { b with loadResult := b.loadResult.or (some .driveRemoved) } := by
  rw [State.settleRemoved, h]
  dsimp only
  rw [he]

theorem State.settleRemoval_waited {s : State} {n : Nat} {t : Tag} {w : DriveWait}
    (h : (s.bay n).waiting = some (t, w)) : s.settleRemoval n = s.settleRemoved n t := by
  rw [State.settleRemoval, h]

theorem State.settleRemoval_unwaited {s : State} {n : Nat} (h : (s.bay n).waiting = none) :
    s.settleRemoval n = s.disturb (· == .bay n) .driveRemoved := by
  rw [State.settleRemoval, h]

theorem KeepsJob.askAttention (s : State) (a : Attention) : KeepsJob s (s.askAttention a) := by
  obtain ⟨n, f, h⟩ := s.askAttention_frame a
  rw [h]
  exact ⟨.refl _, .refl _, .refl _, .refl _⟩

theorem KeepsJob.entry {s v : State} (h : KeepsJob s v) (t : Tag) : v.entry? t = s.entry? t :=
  State.entry?_of_queue h.queue t

theorem KeepsJob.running {s v : State} (h : KeepsJob s v) : v.running? = s.running? := by
  unfold State.running?
  rw [h.seq]
  cases s.seq.job with
  | none => rfl
  | some j =>
    dsimp only
    cases j.kind with
    | entry t => exact h.entry t
    | _ => rfl

theorem Entry.names_any (e : Entry) (x : Loc) : e.names.any (· == x) = true ↔ x ∈ e.names := by
  simp [List.any_eq_true]

/-! ### CARTRIDGE -/

/-- A PICK, or a PROBE or READ of a SCAN, is in flight at the bay (R110). -/
theorem State.stageAt_iff (s : State) (n : Nat) : s.stageAt n = true ↔ ∃ j, s.seq.job = some j
    ∧ ((j.stage = some .pick ∧ ∃ e, JobOf s j e ∧ e.source = some (.bay n))
      ∨ ((j.stage = some .probe ∨ j.stage = some .read) ∧ j.audit.map (·.current) = some (.bay n))) := by
  unfold State.stageAt
  cases hj : s.seq.job with
  | none => exact ⟨fun h => (Bool.false_ne_true h).elim, fun ⟨j, h, _⟩ => nomatch h⟩
  | some j =>
    have hone (p : Job → Prop) : (∃ i, some j = some i ∧ p i) ↔ p j :=
      ⟨fun ⟨i, hi, hp⟩ => Option.some.inj hi ▸ hp, fun hp => ⟨j, rfl, hp⟩⟩
    rw [hone]
    dsimp only
    have hpick : (s.running?.bind (·.source) == some (.bay n)) = true
        ↔ ∃ e, JobOf s j e ∧ e.source = some (.bay n) := by
      rw [beq_iff_eq, Option.bind_eq_some_iff]
      refine exists_congr fun e => and_congr_left fun _ => ?_
      rw [State.running_iff, hj, hone fun i => JobOf s i e]
    cases hs : j.stage with
    | none => simp
    | some st =>
      cases st with
      | pick => simpa using hpick
      | probe | read => simp
      | _ => simp

end Sys2Proof.Machine

/-! SUPPORT. The drive line events (R102 to R104, R106, R108, R110). -/

namespace Sys2Proof.Machine

/-! ### O49 -/

section
variable {s u : State} {i : Fin 4} (hp : s.powered = true) (hi : i.val < s.nBays)
include hp hi

theorem State.presentRising_completes {x : DriveLines}
    (hu : (if (s.bay i).state = .absent then (s.lines i fun _ => ⟨true, x⟩).insertDrive i
      else s.lines i fun _ => ⟨true, x⟩) = u) : Completes (.presentRising i x) s u := by
  unfold Completes
  dsimp only [exec]
  exact State.event_completes hp ((if_pos (decide_eq_true hi)).trans hu)

theorem State.presentFalling_completes
    (hu : (if (s.bay i).state = .absent then s.lines i fun p => { p with present := false }
      else (s.lines i fun p => { p with present := false }).removeDrive i) = u) :
    Completes (.presentFalling i) s u := by
  unfold Completes
  dsimp only [exec]
  exact State.event_completes hp ((if_pos (decide_eq_true hi)).trans hu)

theorem State.acceptedRising_completes
    (hu : (s.lines i fun p => { p with lines := { p.lines with accepted := true } }).driveAccepts i = u) :
    Completes (.acceptedRising i) s u := by
  unfold Completes
  dsimp only [exec]
  exact State.event_completes hp ((if_pos (decide_eq_true hi)).trans hu)

theorem State.ejectReadyRising_completes
    (hu : (s.lines i fun p => { p with lines := { p.lines with ejectReady := true } }).driveEjects i = u) :
    Completes (.ejectReadyRising i) s u := by
  unfold Completes
  dsimp only [exec]
  exact State.event_completes hp ((if_pos (decide_eq_true hi)).trans hu)

theorem State.cartridgeFalling_completes {accepted : Bool}
    (hu : (if (s.bay i).state = .ejected ∧ !accepted ∧ !s.stageAt i then
        (s.lines i fun p =>
          { p with lines := { p.lines with cartridge := false, accepted := accepted } }).bayUpdate i .empty none
      else s.lines i fun p => { p with lines := { p.lines with cartridge := false, accepted := accepted } }) = u) :
    Completes (.cartridgeFalling i accepted) s u := by
  unfold Completes
  dsimp only [exec]
  exact State.event_completes hp ((if_pos (decide_eq_true hi)).trans hu)

end

/-- PRESENT_RISING (R102). -/
theorem State.presentRising_effects {s : State} {i : Fin 4} (hp : s.powered = true) (hi : i.val < s.nBays)
    (x : DriveLines) :
    let n := i.val
    let on : State := s.lines i fun _ => ⟨true, x⟩
    let st : BayState := if x.accepted then .loaded else if x.cartridge then .ejected else .empty
    ((s.bay n).state = .absent → (s.bay n).loadResult = none →
      Completes (.presentRising i x) s
        (State.askAttention ((on.bayUpdate n st none).modBay n fun b => { b with waiting := none })
          (.driveInserted n st)))
    ∧ ((s.bay n).state = .absent → (s.bay n).loadResult.isSome = true →
      Completes (.presentRising i x) s ((on.bayUpdate n st none).askAttention (.driveInserted n st)))
    ∧ ((s.bay n).state ≠ .absent → Completes (.presentRising i x) s on) := by
  intro n on st
  have hst : on.derivedBay n = st := by
    unfold State.derivedBay
    rw [State.driveAt_lines]
    rfl
  exact ⟨fun ha hr => State.presentRising_completes hp hi ((if_pos ha).trans (on.insertDrive_dropped hr hst)),
    fun ha hr => State.presentRising_completes hp hi ((if_pos ha).trans (on.insertDrive_kept hr hst)),
    fun ha => State.presentRising_completes hp hi (if_neg ha)⟩

theorem KeepsJob.lines (s : State) (i : Fin 4) (f : DrivePins → DrivePins) : KeepsJob s (s.lines i f) :=
  ⟨.refl _, .refl _, .refl _, .refl _⟩

/-- What a bay's change of state and its notice leave of the bay's wait. -/
theorem State.waiting_notified (s : State) (n : Nat) (st : BayState) (a : Attention) :
    (((s.bayUpdate n st none).askAttention a).bay n).waiting = (s.bay n).waiting := by
  obtain ⟨q, f, h⟩ := (s.bayUpdate n st none).askAttention_frame a
  rw [h]
  exact (s.bay_bayUpdate n st none id).1

/-- PRESENT_FALLING at a bay with a drive (R103, R104). -/
theorem State.presentFalling_effects {s : State} {i : Fin 4} (hp : s.powered = true) (hi : i.val < s.nBays)
    (ha : (s.bay i.val).state ≠ .absent) :
    let n := i.val
    let out : State :=
      State.askAttention ((s.lines i fun p => { p with present := false }).bayUpdate n .absent none)
        (.driveRemoved n (s.bay n).state (s.inv.place (.bay n)).holds ((s.bay n).waiting.map (·.1)))
    ((s.bay n).waiting = none →
      (s.running? = none → Completes (.presentFalling i) s out)
      ∧ ∀ e j, s.seq.job = some j → JobOf s j e →
        (e.kind = .scan ∨ .bay n ∉ e.names → Completes (.presentFalling i) s out)
        ∧ (e.kind ≠ .scan → .bay n ∈ e.names → e.state = .running →
          Completes (.presentFalling i) s
            (out.modJob fun j => { j with interruption := j.interruption.or (some .driveRemoved) }))
        ∧ (e.kind ≠ .scan → .bay n ∈ e.names → e.state = .awaitingConfirm →
          Completes (.presentFalling i) s
            (out.endHandOff.sentHome j e (.interrupted .driveRemoved) .driveRemoved none)))
    ∧ ∀ t w e, (s.bay n).waiting = some (t, w) → s.entry? t = some e →
      (∀ v, e.state = .waitingDrive v → Completes (.presentFalling i) s (out.entryDone t .driveRemoved))
      ∧ (e.state = .running → Completes (.presentFalling i) s
          (out.modBay n fun b => { b with loadResult := b.loadResult.or (some .driveRemoved) })) := by
  intro n out
  have hkeep : KeepsJob s out :=
    (KeepsJob.lines s i _).trans ((KeepsJob.bayUpdate _ n .absent none id).trans (.askAttention _ _))
  have hwait : (out.bay n).waiting = (s.bay n).waiting :=
    State.waiting_notified (s.lines i fun p => { p with present := false }) n .absent _
  have hgo {u : State} (hu : out.settleRemoval n = u) : Completes (.presentFalling i) s u :=
    State.presentFalling_completes hp hi ((if_neg ha).trans hu)
  refine ⟨fun hw => ?_, fun t w e hw he => ?_⟩
  · have hdisturb := State.settleRemoval_unwaited (hwait.trans hw)
    refine ⟨fun hr => hgo (hdisturb.trans (State.disturb_none (hkeep.running.trans hr))), fun e j hj he => ?_⟩
    have hv : out.seq.job = some j := (congrArg Sequencer.job hkeep.seq).trans hj
    have hof := hkeep.jobOf he
    refine ⟨fun hs => hgo (hdisturb.trans (State.disturb_spared (State.running_of hv hof) ?_)),
      fun hk hn hs => hgo (hdisturb.trans (State.disturb_running hv hof hk ((e.names_any _).2 hn) hs)),
      fun hk hn hs => hgo (hdisturb.trans (State.disturb_awaiting hv hof hk ((e.names_any _).2 hn) hs))⟩
    exact hs.imp_right fun hn => Bool.eq_false_iff.2 (mt (e.names_any _).1 hn)
  · have hsettle := State.settleRemoval_waited (hwait.trans hw)
    have hof : out.entry? t = some e := (hkeep.entry t).trans he
    exact ⟨fun v hs => hgo (hsettle.trans (State.settleRemoved_waiting hof hs n)),
      fun hs => hgo (hsettle.trans (State.settleRemoved_running hof hs n))⟩

section
variable {v : State} {n : Nat}

theorem State.driveAccepts_other
    (h : (v.bay n).state = .absent ∨ (v.bay n).state = .loaded ∨ (v.bay n).state = .ejecting) :
    v.driveAccepts n = v := by
  rcases h with h | h | h <;> simp only [State.driveAccepts, h]

theorem State.driveAccepts_empty (h : (v.bay n).state = .empty) : v.driveAccepts n = v.bayUpdate n .loaded none := by
  simp only [State.driveAccepts, h]

theorem State.driveAccepts_ejected (h : (v.bay n).state = .ejected) : v.driveAccepts n = v.bayKeeps n .loaded := by
  simp only [State.driveAccepts, h]

theorem State.driveAccepts_loading (h : (v.bay n).state = .loading) :
    v.driveAccepts n = v.leaveLoading n .loaded .ok := by
  simp only [State.driveAccepts, h]

theorem State.driveEjects_other (h : (v.bay n).state = .absent ∨ (v.bay n).state = .ejected) :
    v.driveEjects n = v := by
  rcases h with h | h <;> simp only [State.driveEjects, h]

theorem State.driveEjects_empty (h : (v.bay n).state = .empty) :
    v.driveEjects n = (v.bayUpdate n .ejected none).askEjected n (v.bay n).eject := by
  simp only [State.driveEjects, h]

theorem State.driveEjects_loaded (h : (v.bay n).state = .loaded) :
    v.driveEjects n = (v.bayKeeps n .ejected).askEjected n (v.bay n).eject := by
  simp only [State.driveEjects, h]

theorem State.driveEjects_loading (h : (v.bay n).state = .loading) :
    v.driveEjects n = v.leaveLoading n .ejected .driveRejected := by
  simp only [State.driveEjects, h]

theorem State.driveEjects_ejecting (h : (v.bay n).state = .ejecting) : v.driveEjects n = v.ejectDone n := by
  simp only [State.driveEjects, h]

theorem State.ejectDone_unwaited (h : (v.bay n).waiting = none) :
    v.ejectDone n = (v.bayKeeps n .ejected).askEjected n (v.bay n).eject := by
  rw [State.ejectDone, h]

/-- The entry leaves its eject wait for QUEUED, or for WAITING_PORT, by the port's state (R46). -/
theorem State.ejectDone_waited {t : Tag} (h : (v.bay n).waiting = some (t, .eject)) :
    v.ejectDone n =
      ((v.bayKeeps n .ejected).modBay n fun b => { b with waiting := none }).modEntry t fun e =>
        { e with state := if e.isPort && v.port.state != .secured then .waitingPort else .queued } := by
  have hport : (v.bayKeeps n .ejected).port = v.port := by
    obtain ⟨a, w, hb⟩ := v.bayUpdate_frame n .ejected (v.inv.place (.bay n)).label id
    rw [State.bayKeeps, hb]
  rw [State.ejectDone, h]
  dsimp only
  rw [State.leaveEjectWait, State.modBay_port, hport]

end

/-- ACCEPTED_RISING (R106, R110). -/
theorem State.acceptedRising_effects {s : State} {i : Fin 4} (hp : s.powered = true) (hi : i.val < s.nBays) :
    let n := i.val
    let on : State := s.lines i fun p => { p with lines := { p.lines with accepted := true } }
    let kept : State := on.bayUpdate n .loaded (s.inv.place (.bay n)).label
    ((s.bay n).state = .absent ∨ (s.bay n).state = .loaded ∨ (s.bay n).state = .ejecting →
      Completes (.acceptedRising i) s on)
    ∧ ((s.bay n).state = .empty → Completes (.acceptedRising i) s (on.bayUpdate n .loaded none))
    ∧ ((s.bay n).state = .ejected → Completes (.acceptedRising i) s kept)
    ∧ ((s.bay n).state = .loading →
      ((s.bay n).waiting = none → Completes (.acceptedRising i) s kept)
      ∧ ∀ t w e, (s.bay n).waiting = some (t, w) → s.entry? t = some e →
        (e.state = .waitingDrive .load → Completes (.acceptedRising i) s (kept.entryDone t .ok))
        ∧ (e.state = .running → Completes (.acceptedRising i) s
            (kept.modBay n fun b => { b with loadResult := b.loadResult.or (some .ok) }))) := by
  intro n on kept
  have hgo {u : State} (hu : on.driveAccepts n = u) : Completes (.acceptedRising i) s u :=
    State.acceptedRising_completes hp hi hu
  refine ⟨fun h => hgo (State.driveAccepts_other h), fun h => hgo (State.driveAccepts_empty h),
    fun h => hgo (State.driveAccepts_ejected h), fun h => ⟨fun hw => hgo ?_,
    fun t w e hw he => ⟨fun hs => hgo ?_, fun hs => hgo ?_⟩⟩⟩
  · refine (State.driveAccepts_loading (v := on) h).trans ((State.leaveLoading_unwaited (s := on) hw .loaded .ok).trans ?_)
    exact if_neg nofun
  · refine (State.driveAccepts_loading (v := on) h).trans ((State.leaveLoading_waited (s := on) hw .loaded .ok).trans ?_)
    exact State.settleLoad_waiting ((on.bayKeeps_entry n .loaded t).trans he) hs n .ok
  · refine (State.driveAccepts_loading (v := on) h).trans ((State.leaveLoading_waited (s := on) hw .loaded .ok).trans ?_)
    exact State.settleLoad_running ((on.bayKeeps_entry n .loaded t).trans he) (by rw [hs]; nofun) n .ok

/-- EJECT_READY_RISING (R106, R108, R110). -/
theorem State.ejectReadyRising_effects {s : State} {i : Fin 4} (hp : s.powered = true) (hi : i.val < s.nBays) :
    let n := i.val
    let on : State := s.lines i fun p => { p with lines := { p.lines with ejectReady := true } }
    let out : State := on.bayUpdate n .ejected (s.inv.place (.bay n)).label
    let ejected (v : State) : State :=
      v.askAttention (.driveEjected n (v.inv.place (.bay n)).holds (s.bay n).eject)
    ((s.bay n).state = .absent ∨ (s.bay n).state = .ejected → Completes (.ejectReadyRising i) s on)
    ∧ ((s.bay n).state = .empty → Completes (.ejectReadyRising i) s (ejected (on.bayUpdate n .ejected none)))
    ∧ ((s.bay n).state = .loaded → Completes (.ejectReadyRising i) s (ejected out))
    ∧ ((s.bay n).state = .loading →
      ((s.bay n).waiting = none → Completes (.ejectReadyRising i) s (ejected out))
      ∧ ∀ t w e, (s.bay n).waiting = some (t, w) → s.entry? t = some e →
        (e.state = .waitingDrive .load → Completes (.ejectReadyRising i) s (out.entryDone t .driveRejected))
        ∧ (e.state = .running → Completes (.ejectReadyRising i) s
            (out.modBay n fun b => { b with loadResult := b.loadResult.or (some .driveRejected) })))
    ∧ ((s.bay n).state = .ejecting →
      ((s.bay n).waiting = none → Completes (.ejectReadyRising i) s (ejected out))
      ∧ ∀ t e, (s.bay n).waiting = some (t, .eject) → s.entry? t = some e →
        Completes (.ejectReadyRising i) s
          ((out.modBay n fun b => { b with waiting := none }).modEntry t fun e =>
            { e with
              state := if e.isPort && s.port.state != .secured then .waitingPort else .queued })) := by
  intro n on out ejected
  have hgo {u : State} (hu : on.driveEjects n = u) : Completes (.ejectReadyRising i) s u :=
    State.ejectReadyRising_completes hp hi hu
  refine ⟨fun h => hgo (State.driveEjects_other h), fun h => hgo (State.driveEjects_empty h),
    fun h => hgo (State.driveEjects_loaded h), fun h => ⟨fun hw => hgo ?_,
    fun t w e hw he => ⟨fun hs => hgo ?_, fun hs => hgo ?_⟩⟩, fun h => ⟨fun hw => hgo ?_, fun t e hw he => hgo ?_⟩⟩
  · refine (State.driveEjects_loading (v := on) h).trans ?_
    exact (State.leaveLoading_unwaited (s := on) hw .ejected .driveRejected).trans (if_pos rfl)
  · refine (State.driveEjects_loading (v := on) h).trans
      ((State.leaveLoading_waited (s := on) hw .ejected .driveRejected).trans ?_)
    exact State.settleLoad_waiting ((on.bayKeeps_entry n .ejected t).trans he) hs n .driveRejected
  · refine (State.driveEjects_loading (v := on) h).trans
      ((State.leaveLoading_waited (s := on) hw .ejected .driveRejected).trans ?_)
    exact State.settleLoad_running ((on.bayKeeps_entry n .ejected t).trans he) (by rw [hs]; nofun) n .driveRejected
  · exact (State.driveEjects_ejecting (v := on) h).trans (State.ejectDone_unwaited (v := on) hw)
  · exact (State.driveEjects_ejecting (v := on) h).trans (State.ejectDone_waited (v := on) hw)

/-- CARTRIDGE_FALLING (R110). -/
theorem State.cartridgeFalling_effects {s : State} {i : Fin 4} (hp : s.powered = true) (hi : i.val < s.nBays)
    (accepted : Bool) :
    let off : State := s.lines i fun p =>
      { p with lines := { p.lines with cartridge := false, accepted := accepted } }
    ((s.bay i).state = .ejected → accepted = false → ¬ s.stageAt i = true →
      Completes (.cartridgeFalling i accepted) s (off.bayUpdate i .empty none))
    ∧ ((s.bay i).state ≠ .ejected ∨ accepted = true ∨ s.stageAt i = true →
      Completes (.cartridgeFalling i accepted) s off) := by
  intro off
  refine ⟨fun he ha hs => State.cartridgeFalling_completes hp hi (if_pos ⟨he, ?_, ?_⟩),
    fun h => State.cartridgeFalling_completes hp hi (if_neg fun ⟨he, ha, hs⟩ => ?_)⟩
  · rw [ha]
    rfl
  · rw [Bool.eq_false_iff.2 hs]
    rfl
  · rcases h with h | h | h
    · exact h he
    · rw [h] at ha
      exact Bool.false_ne_true ha
    · rw [h] at hs
      exact Bool.false_ne_true hs

/-- Settles O49. -/
theorem driveLineEvents : Obligations.DriveLineEvents := by
  refine ⟨fun s => ⟨fun x => ⟨rfl, rfl, rfl, driveAt_samplePins s.pins x⟩,
    fun i f => ⟨rfl, fun n hn => driveAt_driveModify _ i f hn⟩, fun n => rfl, fun n f => rfl, fun t f => rfl⟩,
    State.bayUpdate_eq, fun s i hp hi => ?_⟩
  refine ⟨fun x => State.presentRising_effects hp hi x,
    fun ha => State.presentFalling_completes hp hi (if_pos ha), fun ha => State.presentFalling_effects hp hi ha,
    State.acceptedRising_effects hp hi, State.ejectReadyRising_effects hp hi, fun accepted => ?_⟩
  have h := State.cartridgeFalling_effects hp hi accepted
  rw [State.stageAt_iff] at h
  exact h

end Sys2Proof.Machine

/-! SUPPORT. Requests that are accepted (R39, R41 to R45). -/

namespace Sys2Proof.Machine

/-! ### O17 -/

section
variable (v : Inventory)

theorem Inventory.claim_cons (x : Loc) (xs : List Loc) (t : Tag) :
    v.claim (x :: xs) t = (v.modify x fun p => { p with claims := p.claims ++ [t] }).claim xs t := rfl

theorem Inventory.locations_claim (xs : List Loc) (t : Tag) : (v.claim xs t).locations = v.locations := by
  induction xs generalizing v with
  | nil => rfl
  | cons x xs ih => rw [Inventory.claim_cons, ih, Inventory.locations_modify]

theorem Inventory.place_claim_ne {xs : List Loc} {y : Loc} (h : y ∉ xs) (t : Tag) :
    (v.claim xs t).place y = v.place y := by
  induction xs generalizing v with
  | nil => rfl
  | cons x xs ih =>
    rw [List.mem_cons, not_or] at h
    rw [Inventory.claim_cons, ih _ h.2, Inventory.place_modify_ne _ (Ne.symm h.1)]

/-- A claim of locations that are apart adds the tag once at each, where it has a record (R9). -/
theorem Inventory.place_claim {xs : List Loc} (hxs : xs.Nodup) (t : Tag) (y : Loc) :
    (v.claim xs t).place y =
      if y ∈ xs ∧ y ∈ v.locations then { v.place y with claims := (v.place y).claims ++ [t] } else v.place y := by
  induction xs generalizing v with
  | nil => exact (if_neg fun h => nomatch h.1).symm
  | cons x xs ih =>
    obtain ⟨hx, hxs⟩ := List.nodup_cons.1 hxs
    rw [Inventory.claim_cons]
    by_cases hy : y = x
    · subst hy
      rw [Inventory.place_claim_ne _ hx]
      by_cases hl : y ∈ v.locations
      · rw [if_pos ⟨List.mem_cons_self, hl⟩]
        exact v.place_modify_same hl _
      · rw [if_neg (fun h => hl h.2), Inventory.modify_outside _ hl]
    · rw [ih _ hxs, Inventory.locations_modify, Inventory.place_modify_ne _ (Ne.symm hy)]
      simp only [List.mem_cons, hy, false_or]

end

section
variable {s : State}

theorem State.queueRefusal_none {t : Tag} (ht : s.entry? t = none) (hl : s.queue.entries.length < 12) :
    s.queueRefusal t = none := by
  rw [State.queueRefusal, ht, if_neg (by simp), if_neg (by exact Nat.not_le.2 hl)]

theorem State.tryMove_ok {b : MoveBody} {x d : Loc} (hm : s.ctl.mode ≠ .faulted) (ht : s.entry? b.tag = none)
    (hl : s.queue.entries.length < 12) (hx : s.resolve .moveSource b.source = .ok x)
    (hd : s.resolve .moveDest b.dest = .ok d) (hne : x ≠ d) (hr : s.destRefusal d = none) :
    s.tryMove b = .ok
      { Entry.fresh b.tag .move with
        source := some x, dest := some d, expected := b.expected, verify := b.verify, skipLabel := b.skipLabel } := by
  rw [State.tryMove, if_neg hm, State.queueRefusal_none ht hl, hx, hd]
  change (check (if x = d then some .sameLocation else none) >>= fun _ => check (s.destRefusal d) >>= fun _ => _) = _
  rw [if_neg hne, hr]
  rfl

theorem State.tryScan_ok {b : ScanBody} {xs : List Loc} (hm : s.ctl.mode ≠ .faulted) (ht : s.entry? b.tag = none)
    (hl : s.queue.entries.length < 12) (hx : s.resolveScan b.kind b.first.toNat b.last.toNat = .ok xs) :
    s.tryScan b = .ok { Entry.fresh b.tag .scan with scan := some ⟨b.kind, b.first, b.last, xs⟩ } := by
  rw [State.tryScan, if_neg hm, State.queueRefusal_none ht hl, hx]
  rfl

theorem State.tryStow_ok {t : Tag} {r : Ref} {d : Loc} (hm : s.ctl.mode = .holding) (ht : s.entry? t = none)
    (hl : s.queue.entries.length < 12) (hd : s.resolve .stowDest r = .ok d) (hr : s.destRefusal d = none) :
    s.tryStow (t, r) = .ok { Entry.fresh t .stow with dest := some d } := by
  rw [State.tryStow, if_pos hm, State.queueRefusal_none ht hl, hd]
  change (check (s.destRefusal d) >>= fun _ => _) = _
  rw [hr]
  rfl

/-- What acceptance makes of an entry and of the claims (R43). -/
theorem State.accept_eq (s : State) (q : Byte) {e : Entry} {xs : List Loc} {port : Bool} (hn : e.names = xs)
    (hp : xs.any Loc.isCell = port) :
    s.accept q e =
      State.reply
        { s with
          queue :=
            { s.queue with
              entries := s.queue.entries ++
                [{ e with
                  accNumber := s.queue.accepted + 1,
                  state := if port && s.port.state != .secured then .waitingPort else .queued }],
              accepted := s.queue.accepted + 1 },
          inv := s.inv.claim xs e.tag }
        q e.kind.code .accepted (be32 (s.queue.accepted + 1)) := by
  subst hn hp
  rfl

end

/-- Settles O17. -/
theorem requestsAccepted : Obligations.RequestsAccepted := by
  refine ⟨fun v xs t x hxs => ⟨v.locations_claim xs t, v.place_claim hxs t x⟩, fun t k => rfl,
    fun q s b x d ht hw hm he hl hx hd hne hr => ?move, fun q s b xs ht hm he hl hx => ?scan,
    fun q s t r d ht hw hm he hl hd hr => ?stow⟩
  case move =>
    unfold Completes
    dsimp only [exec]
    refine State.request_completes ht _ (MoveBody.bytes_length hw) (parseMove_bytes hw) ?_
    rw [State.tryMove_accepted, State.tryMove_ok hm he hl hx hd hne hr]
    exact (s.accepted q).accept_eq q (xs := [x, d]) rfl (by simp)
  case scan =>
    unfold Completes
    dsimp only [exec]
    refine State.request_completes ht _ b.bytes_length (parseScan_bytes b) ?_
    rw [State.tryScan_accepted, State.tryScan_ok hm he hl hx]
    exact (s.accepted q).accept_eq q (xs := xs) rfl rfl
  case stow =>
    unfold Completes
    dsimp only [exec]
    refine State.request_completes ht _ (tagRefBytes_length t hw) (parseTagRef_bytes t hw) ?_
    rw [State.tryStow_accepted, State.tryStow_ok hm he hl hd hr]
    exact (s.accepted q).accept_eq q (xs := [d]) rfl (by simp)

end Sys2Proof.Machine

/-! SUPPORT. RESET FULL and its reload (R14, R22, R33, R34, R61, R87, R112, R126, R150, R154, R163, R174). -/

namespace Sys2Proof.Machine

/-! ### O31 -/

/-- A body that is refused is the body of neither level. -/
theorem parseReset_error {body : List Byte} {o : Nat} (h : parseReset body = .error o) (l : ResetLevel) :
    body ≠ [byteOf l.ctorIdx] := by
  intro hb
  have hread := hb ▸ (parseReset_spelled l).read
  rw [hread] at h
  cases h

theorem exec_resetFull {body : List Byte} (h : body ≠ [0x00#8]) (q : Byte) (s : State) :
    exec (.resetFull q body) s = s.request q 0x1A#8 body parseReset fun s _ => s.fullReset q := if_neg h

/-- What the link is at the reload: reopened where the reply has gone, waiting for it where it has not (R174). -/
theorem Link.reloaded_sent {l : Link} {w : ResetWait} (h : l.resetWait = some w) (hs : w.replySent = true) :
    l.reloaded = l.reopen := by
  rw [Link.reloaded, h]
  exact if_pos hs

theorem Link.reloaded_waits {l : Link} {w : ResetWait} (h : l.resetWait = some w) (hs : w.replySent = false) :
    l.reloaded = { l with resetWait := some { w with reloaded := true } } := by
  rw [Link.reloaded, h]
  exact if_neg (Bool.eq_false_iff.1 hs)

/-- The part at its reload, before its blocks take their values. -/
def State.reloading (s : State) (x : Sense) : State :=
  { s.sample x with link := { s.link.reloaded with noticeFrames := [] } }

theorem exec_resetFullReload {s : State} {w : ResetWait} (hp : s.powered = true) (hw : s.link.resetWait = some w)
    (hr : w.reloaded = false) (hc : s.store.commit = none) (x : Sense) :
    ∃ u, exec (.resetFullReload x) s = .next { u with link := u.link.startNext } ∧ Started (s.reloading x) u := by
  have h : Started (s.reloading x) (s.sample x).reload := State.powerUp_start _
  have hready : s.reloadReady = true := by
    rw [State.reloadReady, hw, hc]
    dsimp only
    rw [hr]
    rfl
  refine ⟨(s.sample x).reload, ?_, h⟩
  have hexec : exec (.resetFullReload x) s = s.event fun s => if s.reloadReady then (s.sample x).reload else s := rfl
  rw [hexec, State.event_powered hp, if_pos hready, h.settle]

/-- Settles O31. -/
theorem resetFullThenReload : Obligations.ResetFullThenReload := by
  refine ⟨fun q s ht => ⟨fun body o hb ho => ?_, ?_⟩, fun x s w hp hw hr hc => ?_⟩
  · rw [exec_resetFull (parseReset_error ho .soft)]
    exact State.request_badFormat ht _ hb ho
  · unfold Completes
    rw [exec_resetFull (by decide)]
    exact State.request_completes ht _ (one_carried _) (parseReset_spelled .full).read rfl
  · obtain ⟨u, ht, h⟩ := exec_resetFullReload hp hw hr hc x
    obtain ⟨f, hl⟩ := h.link
    obtain ⟨-, -, hlast, hwait, hrec⟩ := u.link.startNext_keeps
    have hcache := u.link.startNext_keeps.1
    refine ⟨_, ht, h.straps, h.queue, congrArg Inventory.slots h.inv, congrArg Inventory.cells h.inv,
      congrArg Inventory.gripper h.inv, congrArg Inventory.bays h.inv, h.bays, h.port, h.faults, h.loads, h.picker,
      h.parkTimer, h.confirmTimer, h.ctl, h.outstanding, h.first, h.told, fun hs => ?_, fun hs => ?_⟩
    · dsimp only
      rw [hrec, hlast, hcache, hwait, hl]
      unfold State.reloading
      rw [Link.reloaded_sent hw hs]
      exact ⟨rfl, rfl, rfl, rfl⟩
    · dsimp only
      rw [hwait, hl]
      unfold State.reloading
      rw [Link.reloaded_waits hw hs]
      exact congrArg (fun r => some (ResetWait.mk r true)) hs

end Sys2Proof.Machine

/-! SUPPORT. The laws of the slot map (R17, R18, R20, R24). -/

namespace Sys2Proof.Machine

/-! ### The current map -/

theorem SlotMap.retired_iff (m : SlotMap) (p : Nat) :
    m.retired p = true ↔ p ∈ m.base ∨ ∃ g ∈ m.grown, g.slot = p := by
  simp [SlotMap.retired]

theorem GrownEntry.length_apply (g : GrownEntry) (c : List (Option Nat)) : (g.apply c).length = c.length := by
  unfold GrownEntry.apply
  cases g.logical <;> simp

theorem SlotMap.current_append (N : Nat) (m : SlotMap) (g : GrownEntry) :
    { m with grown := m.grown ++ [g] }.current N = g.apply (m.current N) := by
  simp only [SlotMap.current, List.foldl_append, List.foldl_cons, List.foldl_nil]
  rfl

theorem SlotMap.length_current (N : Nat) (m : SlotMap) :
    (m.current N).length = min m.exposed (m.baseOrder N).length := by
  have hfold (gs : List GrownEntry) : ∀ c : List (Option Nat),
      (gs.foldl (fun c g => g.apply c) c).length = c.length := by
    induction gs with
    | nil => exact fun c => rfl
    | cons g gs ih => exact fun c => (ih _).trans (g.length_apply c)
  rw [SlotMap.current, hfold, SlotMap.slip, List.length_map, List.length_take]

theorem SlotMap.physOf_slip {N : Nat} {m : SlotMap} (h : m.grown = []) (l : Nat) :
    m.physOf N l = if l < m.exposed then (m.baseOrder N)[l]? else none := by
  rw [SlotMap.physOf, SlotMap.current, h, List.foldl_nil, SlotMap.slip, List.getD_eq_getElem?_getD, List.getElem?_map,
    List.getElem?_take]
  split
  · cases (m.baseOrder N)[l]? <;> rfl
  · rfl

theorem GrownEntry.getD_apply (g : GrownEntry) (cur : List (Option Nat)) (l : Nat) :
    (g.apply cur).getD l none =
      if g.logical = some l ∧ l < cur.length then g.substitute
      else if cur.getD l none = some g.slot then none
      else cur.getD l none := by
  have hcleared : (cur.map fun x => if x = some g.slot then none else x).getD l none =
      if cur.getD l none = some g.slot then none else cur.getD l none := by
    rw [List.getD_eq_getElem?_getD, List.getD_eq_getElem?_getD, List.getElem?_map]
    cases cur[l]? with
    | none => rfl
    | some x => rfl
  unfold GrownEntry.apply
  cases hl : g.logical with
  | none => exact hcleared.trans (if_neg fun h => nomatch h.1).symm
  | some k =>
    dsimp only
    rw [← hcleared, List.getD_eq_getElem?_getD, List.getElem?_set, List.length_map]
    by_cases hk : k = l
    · subst hk
      by_cases hlen : k < cur.length
      · simp [hlen]
      · simp [hlen]
    · simp [hk]

theorem SlotMap.physOf_append (N : Nat) (m : SlotMap) (g : GrownEntry) (l : Nat) :
    { m with grown := m.grown ++ [g] }.physOf N l =
      if g.logical = some l ∧ l < min m.exposed (m.baseOrder N).length then g.substitute
      else if m.physOf N l = some g.slot then none
      else m.physOf N l := by
  rw [SlotMap.physOf, SlotMap.current_append, g.getD_apply, m.length_current]
  rfl

theorem SlotMap.physOf_lt {N : Nat} {m : SlotMap} {l p : Nat} (h : m.physOf N l = some p) :
    l < min m.exposed (m.baseOrder N).length := by
  rw [← m.length_current]
  by_contra hl
  rw [SlotMap.physOf, List.getD_eq_default _ _ (Nat.not_lt.1 hl)] at h
  cases h

theorem SlotMap.logicalOf_iff (N : Nat) (m : SlotMap) (p l : Nat) :
    m.logicalOf N p = some l ↔ m.physOf N l = some p ∧ ∀ k, k < l → m.physOf N k ≠ some p := by
  have hget {k : Nat} (hk : k < (m.current N).length) : m.physOf N k = (m.current N)[k] := by
    rw [SlotMap.physOf, List.getD_eq_getElem _ _ hk]
  rw [SlotMap.logicalOf, List.findIdx?_eq_some_iff_getElem]
  constructor
  · rintro ⟨hl, hp, hbefore⟩
    refine ⟨(hget hl).trans (beq_iff_eq.1 hp), fun k hk h => hbefore k hk ?_⟩
    exact beq_iff_eq.2 ((hget (hk.trans hl)).symm.trans h)
  · rintro ⟨hp, hbefore⟩
    have hl : l < (m.current N).length := m.length_current N ▸ SlotMap.physOf_lt hp
    refine ⟨hl, beq_iff_eq.2 ((hget hl).symm.trans hp), fun k hk h => hbefore k hk ?_⟩
    exact (hget (hk.trans hl)).trans (beq_iff_eq.1 h)

theorem SlotMap.lost_eq (N : Nat) (m : SlotMap) :
    m.lost N = (List.range (min m.exposed (m.baseOrder N).length)).filter (fun l => (m.physOf N l).isNone) := by
  rw [SlotMap.lost, m.length_current]

theorem SlotMap.mem_baseOrder (N : Nat) (m : SlotMap) (p : Nat) : p ∈ m.baseOrder N ↔ p < N ∧ p ∉ m.base := by
  simp [SlotMap.baseOrder]

theorem SlotMap.baseOrder_nodup (N : Nat) (m : SlotMap) : (m.baseOrder N).Nodup := List.nodup_range.filter _

theorem SlotMap.mem_freeSpares (N : Nat) (m : SlotMap) (p : Nat) :
    p ∈ m.freeSpares N ↔ p ∈ (m.baseOrder N).drop m.exposed
      ∧ ∀ g ∈ m.grown, g.slot ≠ p ∧ g.substitute ≠ some p := by
  simp [SlotMap.freeSpares]

theorem SlotMap.length_baseOrder {N : Nat} {m : SlotMap} (ha : ascending m.base = true) (hb : ∀ p ∈ m.base, p < N) :
    (m.baseOrder N).length = m.available N := by
  have hnodup : m.base.Nodup := ((ascending_iff _).1 ha).imp fun h => Nat.ne_of_lt h
  have hperm : ((List.range N).filter fun p => m.base.contains p).Perm m.base := by
    refine (List.perm_ext_iff_of_nodup (List.nodup_range.filter _) hnodup).2 fun p => ?_
    simpa using fun h => hb p h
  have hlen := List.length_eq_countP_add_countP (fun p => m.base.contains p) (l := List.range N)
  rw [List.countP_eq_length_filter, List.countP_eq_length_filter, hperm.length_eq, List.length_range] at hlen
  have hrest : (m.baseOrder N).length = ((List.range N).filter fun p => !m.base.contains p).length := rfl
  rw [SlotMap.available]
  simp only [Bool.not_eq_true, Bool.decide_eq_false] at hlen
  omega

end Sys2Proof.Machine

/-! SUPPORT. A map made by retirements alone: what serves, what is free and what is lost (R20, R24). -/

namespace Sys2Proof.Machine

/-! ### O47 -/

/-- The map obeys the laws of R20: no slot serves twice, the slots that serve, the free spares and the retired slots of
the grown list share out the base order, and every lost logical slot has its entry in the grown list. -/
structure SlotMap.Laid (N : Nat) (m : SlotMap) : Prop where
  exposed : m.exposed ≤ (m.baseOrder N).length
  once : ∀ l k p, m.physOf N l = some p → m.physOf N k = some p → l = k
  serves : ∀ l p, m.physOf N l = some p → p ∈ m.baseOrder N ∧ ∀ g ∈ m.grown, g.slot ≠ p
  covers : ∀ p ∈ m.baseOrder N, (∀ g ∈ m.grown, g.slot ≠ p) → (∃ l, m.physOf N l = some p) ∨ p ∈ m.freeSpares N
  apart : ∀ p ∈ m.freeSpares N, ∀ l, m.physOf N l ≠ some p
  lost : ∀ l < m.exposed, m.physOf N l = none → ∃ g ∈ m.grown, g.logical = some l ∧ g.substitute = none
  slots : (m.grown.map (·.slot)).Nodup
  within : ∀ g ∈ m.grown, g.slot ∈ m.baseOrder N

section
variable {N : Nat} {m : SlotMap}

theorem SlotMap.laid_slip (hg : m.grown = []) (he : m.exposed ≤ (m.baseOrder N).length) : m.Laid N := by
  have hget {l p : Nat} (h : m.physOf N l = some p) : l < m.exposed ∧ (m.baseOrder N)[l]? = some p := by
    rw [SlotMap.physOf_slip hg] at h
    split at h
    next hl => exact ⟨hl, h⟩
    next => cases h
  refine ⟨he, fun l k p hl hk => ?once, fun l p h => ⟨List.mem_of_getElem? (hget h).2, by simp [hg]⟩,
    fun p hp _ => ?covers, fun p hp l h => ?apart, fun l hl h => ?lost, by simp [hg], by simp [hg]⟩
  case once =>
    obtain ⟨hlen, -⟩ := List.getElem?_eq_some_iff.1 (hget hl).2
    exact (List.getElem?_inj hlen (m.baseOrder_nodup N)).1 ((hget hl).2.trans (hget hk).2.symm)
  case covers =>
    obtain ⟨i, hi, rfl⟩ := List.getElem_of_mem hp
    by_cases hx : i < m.exposed
    · exact .inl ⟨i, by rw [SlotMap.physOf_slip hg, if_pos hx, List.getElem?_eq_getElem hi]⟩
    · refine .inr ((m.mem_freeSpares N _).2 ⟨?_, by simp [hg]⟩)
      exact List.mem_drop_iff_getElem.2 ⟨i - m.exposed, by omega, by congr 1; omega⟩
  case apart =>
    have htake : p ∈ (m.baseOrder N).take m.exposed := by
      refine List.mem_of_getElem? (i := l) ?_
      rw [List.getElem?_take, if_pos (hget h).1, (hget h).2]
    exact List.disjoint_take_drop (m.baseOrder_nodup N) le_rfl htake ((m.mem_freeSpares N _).1 hp).1
  case lost =>
    rw [SlotMap.physOf_slip hg, if_pos hl, List.getElem?_eq_getElem (hl.trans_le he)] at h
    cases h

theorem SlotMap.Laid.logicalOf (h : m.Laid N) {p l : Nat} : m.logicalOf N p = some l ↔ m.physOf N l = some p := by
  rw [m.logicalOf_iff]
  exact ⟨fun k => k.1, fun k => ⟨k, fun i hi hp => Nat.ne_of_lt hi (h.once i l p hp k)⟩⟩

theorem SlotMap.Laid.physOf_retire (h : m.Laid N) (p l : Nat) :
    (m.retire N p).physOf N l = if m.physOf N l = some p then (m.freeSpares N).head? else m.physOf N l := by
  have happend : (m.retire N p).physOf N l = { m with grown := m.grown ++ [m.retirement N p] }.physOf N l := rfl
  rw [happend, m.physOf_append]
  by_cases hs : m.physOf N l = some p
  · rw [if_pos ⟨h.logicalOf.2 hs, SlotMap.physOf_lt hs⟩, if_pos hs]
    exact if_pos (by rw [h.logicalOf.2 hs]; rfl)
  · rw [if_neg (fun k => hs (h.logicalOf.1 k.1)), if_neg hs]
    exact if_neg hs

/-- A retirement gives a substitute to a slot that serves, and to no other. -/
theorem SlotMap.Laid.substitute_iff (h : m.Laid N) (p q : Nat) :
    (m.retirement N p).substitute = some q ↔ (∃ l, m.physOf N l = some p) ∧ (m.freeSpares N).head? = some q := by
  have hsome : (m.logicalOf N p).isSome = true ↔ ∃ l, m.physOf N l = some p := by
    rw [Option.isSome_iff_exists]
    exact exists_congr fun l => h.logicalOf
  unfold SlotMap.retirement
  dsimp only
  rw [← hsome]
  by_cases hs : (m.logicalOf N p).isSome = true <;> simp [hs]

theorem SlotMap.Laid.freeSpares_retire (h : m.Laid N) (p q : Nat) :
    q ∈ (m.retire N p).freeSpares N ↔ q ∈ m.freeSpares N ∧ q ≠ p
      ∧ ¬ ((∃ l, m.physOf N l = some p) ∧ (m.freeSpares N).head? = some q) := by
  rw [SlotMap.mem_freeSpares, SlotMap.mem_freeSpares, ← h.substitute_iff]
  have hbase : ((m.retire N p).baseOrder N).drop (m.retire N p).exposed = (m.baseOrder N).drop m.exposed := rfl
  have hgrown : (m.retire N p).grown = m.grown ++ [m.retirement N p] := rfl
  have hslot : (m.retirement N p).slot = p := rfl
  rw [hbase, hgrown]
  simp only [List.mem_append, List.mem_singleton, or_imp, forall_and, forall_eq, hslot, and_assoc, ne_comm (a := p)]
  tauto

theorem SlotMap.Laid.retire (h : m.Laid N) {p : Nat} (hp : p ∈ m.baseOrder N) (hg : ∀ g ∈ m.grown, g.slot ≠ p) :
    (m.retire N p).Laid N := by
  have hgrown : (m.retire N p).grown = m.grown ++ [m.retirement N p] := rfl
  have hslots (q : Nat) : (∀ g ∈ (m.retire N p).grown, g.slot ≠ q) ↔ (∀ g ∈ m.grown, g.slot ≠ q) ∧ q ≠ p := by
    rw [hgrown]
    simp only [List.mem_append, List.mem_singleton, or_imp, forall_and, forall_eq]
    exact and_congr_right fun _ => ne_comm
  have hhead {q : Nat} (hq : (m.freeSpares N).head? = some q) : q ∈ m.freeSpares N := List.mem_of_mem_head? hq
  have hcases {l q : Nat} (hl : (m.retire N p).physOf N l = some q) :
      (m.physOf N l = some p ∧ (m.freeSpares N).head? = some q) ∨ (m.physOf N l ≠ some p ∧ m.physOf N l = some q) := by
    rw [h.physOf_retire] at hl
    split at hl
    next hs => exact .inl ⟨hs, hl⟩
    next hs => exact .inr ⟨hs, hl⟩
  refine ⟨h.exposed, fun l k q hl hk => ?once, fun l q hl => ?serves, fun q hq hng => ?covers, fun q hq l hl => ?apart,
    fun l hl hn => ?lost, ?slots, ?within⟩
  case once =>
    rcases hcases hl with ⟨hlp, hq⟩ | ⟨hlp, hlq⟩ <;> rcases hcases hk with ⟨hkp, hq'⟩ | ⟨hkp, hkq⟩
    · exact h.once l k p hlp hkp
    · exact absurd hkq (h.apart q (hhead hq) k)
    · exact absurd hlq (h.apart q (hhead hq') l)
    · exact h.once l k q hlq hkq
  case serves =>
    rw [hslots]
    rcases hcases hl with ⟨hlp, hq⟩ | ⟨hlp, hlq⟩
    · obtain ⟨hdrop, hfree⟩ := (m.mem_freeSpares N q).1 (hhead hq)
      refine ⟨List.mem_of_mem_drop hdrop, fun g k => (hfree g k).1, ?_⟩
      rintro rfl
      exact h.apart q (hhead hq) l hlp
    · obtain ⟨hb, hs⟩ := h.serves l q hlq
      refine ⟨hb, hs, ?_⟩
      rintro rfl
      exact hlp hlq
  case covers =>
    obtain ⟨hng, hqp⟩ := (hslots q).1 hng
    rcases h.covers q hq hng with ⟨l, hl⟩ | hfree
    · refine .inl ⟨l, ?_⟩
      rw [h.physOf_retire, if_neg, hl]
      rw [hl]
      exact fun k => hqp (Option.some.inj k)
    · by_cases hsub : (∃ l, m.physOf N l = some p) ∧ (m.freeSpares N).head? = some q
      · obtain ⟨⟨l, hl⟩, hq⟩ := hsub
        exact .inl ⟨l, by rw [h.physOf_retire, if_pos hl, hq]⟩
      · exact .inr ((h.freeSpares_retire p q).2 ⟨hfree, hqp, hsub⟩)
  case apart =>
    obtain ⟨hfree, -, hsub⟩ := (h.freeSpares_retire p q).1 hq
    rcases hcases hl with ⟨hlp, hq⟩ | ⟨-, hlq⟩
    · exact hsub ⟨⟨l, hlp⟩, hq⟩
    · exact h.apart q hfree l hlq
  case lost =>
    rw [h.physOf_retire] at hn
    split at hn
    next hs =>
      refine ⟨m.retirement N p, by rw [hgrown]; simp, h.logicalOf.2 hs, ?_⟩
      refine Option.eq_none_iff_forall_ne_some.2 fun q hq => ?_
      rw [((h.substitute_iff p q).1 hq).2] at hn
      cases hn
    next hs =>
      obtain ⟨g, hmem, hlost⟩ := h.lost l hl hn
      exact ⟨g, hgrown ▸ List.mem_append_left _ hmem, hlost⟩
  case slots =>
    rw [hgrown, List.map_append, List.map_singleton]
    refine h.slots.append (List.nodup_singleton _) fun q hq hqp => ?_
    obtain ⟨g, hmem, rfl⟩ := List.mem_map.1 hq
    exact hg g hmem (List.mem_singleton.1 hqp)
  case within =>
    intro g hmem
    rw [hgrown] at hmem
    rcases List.mem_append.1 hmem with hmem | hmem
    · exact h.within g hmem
    · rw [List.mem_singleton.1 hmem]
      exact hp

/-- The slots that serve, the free spares and the retired slots share out the base order. -/
theorem SlotMap.Laid.counts (h : m.Laid N) :
    (m.baseOrder N).length = (m.exposed - (m.lost N).length) + (m.freeSpares N).length + m.grown.length := by
  have hmin : min m.exposed (m.baseOrder N).length = m.exposed := Nat.min_eq_left h.exposed
  have hmem (p : Nat) : p ∈ (List.range m.exposed).filterMap (m.physOf N) ↔ ∃ l, m.physOf N l = some p := by
    rw [List.mem_filterMap]
    refine exists_congr fun l => and_iff_right_of_imp fun hl => List.mem_range.2 ?_
    exact hmin ▸ SlotMap.physOf_lt hl
  have hserving : ((List.range m.exposed).filterMap (m.physOf N)).length = m.exposed - (m.lost N).length := by
    have hlen := List.length_eq_countP_add_countP (fun l => (m.physOf N l).isSome) (l := List.range m.exposed)
    have hlost : (m.lost N).length = (List.range m.exposed).countP fun l => (m.physOf N l).isNone := by
      rw [m.lost_eq, hmin, List.countP_eq_length_filter]
    simp only [Bool.not_eq_true, Option.isSome_eq_false_iff, Bool.decide_eq_true] at hlen
    rw [List.length_filterMap_eq_countP, hlost]
    rw [List.length_range] at hlen
    omega
  have hperm : (m.baseOrder N).Perm
      ((List.range m.exposed).filterMap (m.physOf N) ++ m.freeSpares N ++ m.grown.map (·.slot)) := by
    have hserve : ((List.range m.exposed).filterMap (m.physOf N)).Nodup :=
      List.nodup_range.filterMap fun l k p hl hk => h.once l k p hl hk
    have hfree : (m.freeSpares N).Nodup := (List.drop_sublist _ _).nodup (m.baseOrder_nodup N) |>.filter _
    refine (List.perm_ext_iff_of_nodup (m.baseOrder_nodup N) ?_).2 fun p => ?_
    · refine (hserve.append hfree fun p hp hf => ?_).append h.slots fun p hp hs => ?_
      · obtain ⟨l, hl⟩ := (hmem p).1 hp
        exact h.apart p hf l hl
      · obtain ⟨g, hg, rfl⟩ := List.mem_map.1 hs
        rcases List.mem_append.1 hp with hp | hf
        · obtain ⟨l, hl⟩ := (hmem _).1 hp
          exact (h.serves l _ hl).2 g hg rfl
        · exact (((m.mem_freeSpares N _).1 hf).2 g hg).1 rfl
    · rw [List.mem_append, List.mem_append, hmem]
      constructor
      · intro hp
        by_cases hg : ∀ g ∈ m.grown, g.slot ≠ p
        · exact .inl (h.covers p hp hg)
        · push Not at hg
          exact .inr (List.mem_map.2 hg)
      · rintro ((⟨l, hl⟩ | hf) | hs)
        · exact (h.serves l p hl).1
        · exact List.mem_of_mem_drop ((m.mem_freeSpares N p).1 hf).1
        · obtain ⟨g, hg, rfl⟩ := List.mem_map.1 hs
          exact h.within g hg
  rw [hperm.length_eq, List.length_append, List.length_append, List.length_map, hserving]

/-- Retirements of slots that are apart and not yet retired keep the laws. -/
theorem SlotMap.Laid.retirements (h : m.Laid N) {ps : List Nat} (hn : ps.Nodup)
    (hp : ∀ p ∈ ps, p ∈ m.baseOrder N ∧ ∀ g ∈ m.grown, g.slot ≠ p) :
    (ps.foldl (fun k p => k.retire N p) m).Laid N := by
  induction ps generalizing m with
  | nil => exact h
  | cons p ps ih =>
    obtain ⟨hnot, hn⟩ := List.nodup_cons.1 hn
    obtain ⟨hb, hg⟩ := hp p List.mem_cons_self
    refine ih (h.retire hb hg) hn fun q hq => ?_
    obtain ⟨hqb, hqg⟩ := hp q (List.mem_cons_of_mem _ hq)
    refine ⟨hqb, fun g hmem => ?_⟩
    rcases List.mem_append.1 (show g ∈ m.grown ++ [m.retirement N p] from hmem) with hmem | hmem
    · exact hqg g hmem
    · rw [List.mem_singleton.1 hmem]
      rintro rfl
      exact hnot hq

theorem SlotMap.retirements_base (ps : List Nat) : (ps.foldl (fun k p => k.retire N p) m).base = m.base := by
  induction ps generalizing m with
  | nil => rfl
  | cons p ps ih => exact ih

theorem SlotMap.Laid.mem_lost (h : m.Laid N) {l : Nat} (hl : l < m.exposed) (hn : m.physOf N l = none) :
    l ∈ m.lost N := by
  rw [m.lost_eq, Nat.min_eq_left h.exposed]
  exact List.mem_filter.2 ⟨List.mem_range.2 hl, by rw [hn]; rfl⟩

theorem SlotMap.Laid.unretired (h : m.Laid N) {l p : Nat} (hl : m.physOf N l = some p) :
    p < N ∧ m.retired p = false := by
  obtain ⟨hb, hg⟩ := h.serves l p hl
  obtain ⟨hlt, hbase⟩ := (m.mem_baseOrder N p).1 hb
  refine ⟨hlt, Bool.eq_false_iff.2 fun hr => ?_⟩
  rcases (m.retired_iff p).1 hr with hr | ⟨g, hmem, hs⟩
  · exact hbase hr
  · exact hg g hmem hs

end

/-- Settles O47. -/
theorem mapLaws : Obligations.MapLaws := by
  refine ⟨fun N m => ⟨m.retired_iff, rfl, rfl, fun hg l => SlotMap.physOf_slip hg l, m.physOf_append N, m.logicalOf_iff N,
    m.lost_eq N, rfl, fun p => rfl, fun p => rfl⟩, fun N m ps hg ha hb he hn hp => ?_⟩
  intro k
  have hlen := SlotMap.length_baseOrder ha hb
  have hk : k.Laid N := by
    refine (SlotMap.laid_slip hg (hlen ▸ he)).retirements hn fun p hmem => ⟨?_, by simp [hg]⟩
    obtain ⟨hlt, hr⟩ := hp p hmem
    exact (m.mem_baseOrder N p).2 ⟨hlt, fun hbase => Bool.eq_false_iff.1 hr ((m.retired_iff p).2 (.inl hbase))⟩
  have hbase : k.base = m.base := SlotMap.retirements_base ps
  have havail : (k.baseOrder N).length = k.available N :=
    SlotMap.length_baseOrder (hbase ▸ ha) (hbase ▸ hb)
  exact ⟨havail.symm.trans hk.counts,
    fun l hl => ⟨fun p hs => hk.unretired hs, fun hs => ⟨hk.mem_lost hl hs, hk.lost l hl hs⟩⟩, hk.once⟩

end Sys2Proof.Machine

/-! SUPPORT. References and scan ranges (R2 to R6, R128). -/

namespace Sys2Proof.Machine

/-! ### O15 -/

section
variable (s : State)

theorem State.resolveLogical_eq (n : Nat) : s.resolveLogical n =
    if s.map.exposed ≤ n then .error .noSuchLocation
    else match s.map.physOf s.nPhys n with
      | none => .error .logicalLost
      | some p => .ok (.slot p) := by
  unfold State.resolveLogical
  by_cases h : n < s.map.exposed
  · rw [if_pos h, if_neg (Nat.not_le.2 h)]
    cases s.map.physOf s.nPhys n <;> rfl
  · rw [if_neg h, if_pos (Nat.not_lt.1 h)]

theorem State.physicalAllowed_iff (pos : RefPos) : s.physicalAllowed pos = true ↔
    pos = .moveSource ∨ (pos = .moveDest ∧ s.ctl.mode = .maintenance)
      ∨ (pos = .stowDest ∧ s.ctl.ret = .maintenance) ∨ (pos = .divertDest ∧ s.ctl.mode = .maintenance) := by
  cases pos <;> simp [State.physicalAllowed]

theorem State.resolve_physical (pos : RefPos) (n : Nat) : s.resolve pos (.physical n) =
    if pos = .moveSource ∨ (pos = .moveDest ∧ s.ctl.mode = .maintenance)
        ∨ (pos = .stowDest ∧ s.ctl.ret = .maintenance) ∨ (pos = .divertDest ∧ s.ctl.mode = .maintenance) then
      if s.nPhys ≤ n then .error .noSuchLocation else .ok (.slot n)
    else .error .referenceNotAllowed := by
  rw [← if_congr (s.physicalAllowed_iff pos) rfl rfl]
  unfold State.resolve
  dsimp only
  by_cases h : n < s.nPhys
  · rw [if_pos h, if_neg (Nat.not_le.2 h)]
    cases s.physicalAllowed pos <;> rfl
  · rw [if_neg h, if_pos (Nat.not_lt.1 h)]
    cases s.physicalAllowed pos <;> rfl

theorem State.resolveBay_eq (n : Nat) : s.resolveBay n =
    if s.nBays ≤ n then .error .driveAbsent
    else if (s.bay n).state = .absent then .error .driveAbsent
    else .ok (.bay n) := by
  unfold State.resolveBay
  by_cases h : n < s.nBays
  · by_cases ha : (s.bay n).state = .absent
    · rw [if_neg (fun k => k.2 ha), if_neg (Nat.not_le.2 h), if_pos ha]
    · rw [if_pos ⟨h, ha⟩, if_neg (Nat.not_le.2 h), if_neg ha]
  · rw [if_neg (fun k => h k.1), if_pos (Nat.not_lt.1 h)]

theorem State.resolve_port (pos : RefPos) (n : Nat) :
    s.resolve pos (.port n) = if 5 < n then .error .noSuchLocation else .ok (.cell n) := by
  change (if n < 6 then .ok (.cell n) else .error .noSuchLocation : Except Status Loc) = _
  by_cases h : n < 6
  · rw [if_pos h, if_neg (by omega)]
  · rw [if_neg h, if_pos (by omega)]

/-! ### Labels -/

theorem State.mem_holdersOf {l : Label} {x : Loc} :
    x ∈ s.inv.holdersOf l ↔ x ∈ s.inv.locations ∧ (s.inv.place x).holds = some l := by
  rw [Inventory.holdersOf, List.mem_filter, beq_iff_eq]

theorem State.resolveLabel_notFound {l : Label} (h : s.inv.holdersOf l = []) :
    s.resolveLabel l = .error .labelNotFound := by
  rw [State.resolveLabel, h]

theorem State.resolveLabel_found {l : Label} (h : s.inv.holdersOf l ≠ []) :
    s.resolveLabel l =
      match (s.inv.holdersOf l).find? fun x => !(s.inv.place x).dup with
      | none => .error .labelAmbiguous
      | some x => s.labelSource x := by
  unfold State.resolveLabel
  split
  next hn => exact absurd hn h
  next => rfl

theorem State.resolve_label (l : Label) :
    (∀ pos, pos ≠ .moveSource → s.resolve pos (.label l) = .error .referenceNotAllowed)
    ∧ ((∀ x ∈ s.inv.locations, (s.inv.place x).holds ≠ some l) →
      s.resolve .moveSource (.label l) = .error .labelNotFound)
    ∧ ((∃ x ∈ s.inv.locations, (s.inv.place x).holds = some l) →
      (∀ x ∈ s.inv.locations, (s.inv.place x).holds = some l → (s.inv.place x).dup = true) →
      s.resolve .moveSource (.label l) = .error .labelAmbiguous)
    ∧ ∀ x ∈ s.inv.locations, (s.inv.place x).holds = some l → (s.inv.place x).dup = false →
      (∀ y ∈ s.inv.locations, (s.inv.place y).holds = some l → y = x) →
      s.resolve .moveSource (.label l) = s.labelSource x := by
  have hsource : s.resolve .moveSource (.label l) = s.resolveLabel l := by
    unfold State.resolve
    exact if_pos rfl
  refine ⟨fun pos hpos => ?_, fun hnone => ?_, fun ⟨x, hx, hh⟩ hdup => ?_, fun x hx hh hd hone => ?_⟩
  · unfold State.resolve
    exact if_neg hpos
  · rw [hsource]
    refine s.resolveLabel_notFound (List.eq_nil_iff_forall_not_mem.2 fun x hx => ?_)
    obtain ⟨hx, hh⟩ := s.mem_holdersOf.1 hx
    exact hnone x hx hh
  · rw [hsource, s.resolveLabel_found (List.ne_nil_of_mem (s.mem_holdersOf.2 ⟨hx, hh⟩)), List.find?_eq_none.2]
    intro y hy
    obtain ⟨hy, hh⟩ := s.mem_holdersOf.1 hy
    simp [hdup y hy hh]
  · have hmem : x ∈ s.inv.holdersOf l := s.mem_holdersOf.2 ⟨hx, hh⟩
    rw [hsource, s.resolveLabel_found (List.ne_nil_of_mem hmem)]
    cases hf : (s.inv.holdersOf l).find? fun x => !(s.inv.place x).dup with
    | none => exact absurd (List.find?_eq_none.1 hf x hmem) (by simp [hd])
    | some y =>
      obtain ⟨hy, hyh⟩ := s.mem_holdersOf.1 (List.mem_of_find?_eq_some hf)
      rw [hone y hy hyh]

theorem State.labelSource_eq (x : Loc) : s.labelSource x =
    match x with
    | .gripper => .error .referenceNotAllowed
    | .slot p => if s.map.retired p = true then .error .referenceNotAllowed else .ok x
    | _ => .ok x := by
  cases x <;> rfl

/-! ### Scan ranges -/

theorem numbers_eq (f t : Nat) : numbers f t = List.range' f (t + 1 - f) := by
  rw [numbers, List.range_eq_range', List.drop_range', Nat.zero_add, Nat.mul_one]

/-- A range of numbers, by its order and by the bound its last stands under. -/
theorem State.range_eq {f t bound : Nat} {st : Status} (xs : List Loc) :
    (if t < f then .error .outOfRange else if t < bound then .ok xs else .error st : Except Status (List Loc)) =
      if t < f then .error .outOfRange else if bound ≤ t then .error st else .ok xs := by
  by_cases h : t < bound
  · rw [if_pos h, if_neg (Nat.not_le.2 h)]
  · rw [if_neg h, if_pos (Nat.not_lt.1 h)]

theorem State.served_eq (hinj : ∀ l l' p, s.map.physOf s.nPhys l = some p → s.map.physOf s.nPhys l' = some p → l = l')
    (f t : Nat) :
    s.served f t = (List.range s.nPhys).filter fun p =>
      (List.range' f (t + 1 - f)).any fun l => s.map.physOf s.nPhys l == some p := by
  have hlogical (p l : Nat) : s.map.logicalOf s.nPhys p = some l ↔ s.map.physOf s.nPhys l = some p := by
    rw [SlotMap.logicalOf_iff]
    exact ⟨fun h => h.1, fun h => ⟨h, fun k hk hp => Nat.ne_of_lt hk (hinj k l p hp h)⟩⟩
  unfold State.served
  refine List.filter_congr fun p _ => ?_
  rw [Bool.eq_iff_iff, List.any_eq_true]
  constructor
  · intro h
    split at h
    next l hl =>
      rw [Bool.and_eq_true, decide_eq_true_eq, decide_eq_true_eq] at h
      exact ⟨l, List.mem_range'_1.2 ⟨h.1, by omega⟩, beq_iff_eq.2 ((hlogical p l).1 hl)⟩
    next => exact absurd h Bool.false_ne_true
  · rintro ⟨l, hl, hp⟩
    rw [(hlogical p l).2 (beq_iff_eq.1 hp)]
    have hrange := List.mem_range'_1.1 hl
    exact Bool.and_eq_true_iff.2 ⟨decide_eq_true hrange.1, decide_eq_true (by omega)⟩

theorem State.resolveScan_logical (hlt : ∀ l p, s.map.physOf s.nPhys l = some p → p < s.nPhys)
    (hinj : ∀ l l' p, s.map.physOf s.nPhys l = some p → s.map.physOf s.nPhys l' = some p → l = l') (f t : Nat) :
    s.resolveScan .logical f t =
      if t < f then .error .outOfRange
      else if s.map.exposed ≤ t then .error .noSuchLocation
      else if (List.range' f (t + 1 - f)).all (fun l => (s.map.physOf s.nPhys l).isNone) then .error .logicalLost
      else .ok (((List.range s.nPhys).filter fun p =>
        (List.range' f (t + 1 - f)).any fun l => s.map.physOf s.nPhys l == some p).map .slot) := by
  have hempty : (((List.range s.nPhys).filter fun p =>
      (List.range' f (t + 1 - f)).any fun l => s.map.physOf s.nPhys l == some p).map Loc.slot).isEmpty
        = (List.range' f (t + 1 - f)).all (fun l => (s.map.physOf s.nPhys l).isNone) := by
    rw [Bool.eq_iff_iff, List.isEmpty_iff, List.map_eq_nil_iff, List.filter_eq_nil_iff, List.all_eq_true]
    constructor
    · intro h l hl
      refine Option.isNone_iff_eq_none.2 (Option.eq_none_iff_forall_ne_some.2 fun p hp => ?_)
      exact h p (List.mem_range.2 (hlt l p hp)) (List.any_eq_true.2 ⟨l, hl, beq_iff_eq.2 hp⟩)
    · intro h p _ hp
      obtain ⟨l, hl, hp⟩ := List.any_eq_true.1 hp
      have hnone := h l hl
      rw [beq_iff_eq.1 hp] at hnone
      cases hnone
  change ((if t < f then .error .outOfRange else if t < s.map.exposed then .ok ((s.served f t).map .slot)
    else .error .noSuchLocation : Except Status (List Loc)) >>= fun xs =>
      if xs.isEmpty then .error .logicalLost else pure xs) = _
  rw [State.range_eq, s.served_eq hinj]
  split
  · rfl
  · split
    · rfl
    · rw [← hempty]
      rfl

end

/-- Settles O15. -/
theorem referencesResolve : Obligations.ReferencesResolve := by
  intro s
  refine ⟨fun pos n => s.resolveLogical_eq n, s.resolve_physical, fun pos n => s.resolveBay_eq n, s.resolve_port,
    fun pos n => rfl, fun l => ?labels, fun d => by cases d <;> rfl, s.resolveScan_logical, fun f t => ?physical,
    fun f t => ?bays, fun f t => ?port, fun f t => rfl⟩
  case labels =>
    obtain ⟨hpos, hnone, hdup, hone⟩ := s.resolve_label l
    exact ⟨hpos, hnone, hdup, fun x hx hh hd hy => (hone x hx hh hd hy).trans (s.labelSource_eq x)⟩
  case physical => exact (State.range_eq _).trans (by rw [numbers_eq])
  case bays => exact (State.range_eq _).trans (by rw [numbers_eq])
  case port =>
    refine (State.range_eq (bound := 6) _).trans ?_
    rw [numbers_eq]
    rfl

end Sys2Proof.Machine

/-! SUPPORT. The queries (R12, R13, R31, R60, R164, R182, R183, R185). -/

namespace Sys2Proof.Machine

/-! ### Fields of the queries -/

theorem moveFlags_eq (v k : Bool) : moveFlags v k = byteOf (v.toNat + 2 * k.toNat) := rfl

theorem statusFlags_eq (a b c d e : Bool) : statusFlags a b c d e =
    byteOf (a.toNat + 2 * b.toNat + 4 * c.toNat + 8 * d.toNat + 16 * e.toNat) := by
  unfold statusFlags bitsOf bitsOf bitsOf bitsOf bitsOf bitsOf
  congr 1
  omega

theorem testBit_bitsOf (l : List Bool) (i : Nat) : (bitsOf l).testBit i = l.getD i false := by
  induction l generalizing i with
  | nil => exact Nat.zero_testBit i
  | cons b bs ih =>
    cases i with
    | zero => cases b <;> simp [bitsOf]
    | succ i =>
      have hhalf : bitsOf (b :: bs) / 2 = bitsOf bs := by
        have hb := b.toNat_le
        have hcons : bitsOf (b :: bs) = b.toNat + 2 * bitsOf bs := rfl
        omega
      rw [Nat.testBit_succ, hhalf, ih]
      rfl

/-- The attention summary has a bit for each kind, by its code (R164). -/
theorem summaryBits_kind (ks : List AttnKind) (k : AttnKind) : (summaryBits ks).getLsbD k.ctorIdx = ks.contains k := by
  rw [summaryBits, BitVec.getLsbD_ofNat, testBit_bitsOf]
  cases k <;> rfl

theorem optByte_number (n : Option Nat) : optByte n = match n with
    | some l => byteOf l
    | none => 0xFF#8 := by
  cases n <;> rfl

/-- A location's field, its logical number found in the map. -/
theorem locField_view (s : State) (x : Option Loc) : locField (x.map s.view) = match x with
    | some (.slot p) =>
      [0x01#8, byteOf p,
        match s.map.logicalOf s.nPhys p with
        | some l => byteOf l
        | none => 0xFF#8]
    | some (.bay n) => [0x02#8, byteOf n, 0xFF#8]
    | some (.cell n) => [0x03#8, byteOf n, 0xFF#8]
    | some .gripper => [0x05#8, 0x00#8, 0xFF#8]
    | none => [0xFF#8, 0xFF#8, 0xFF#8] := by
  cases x with
  | none => rfl
  | some x =>
    cases x with
    | slot p =>
      exact congrArg (fun l => [0x01#8, byteOf p, l]) (optByte_number (s.map.logicalOf s.nPhys p))
    | bay | cell | gripper => rfl

/-! ### O13 -/

section
variable {q : Byte} {s : State} (h : s.takes q)
include h

theorem exec_queryRequest_none {t : Tag} (he : s.entry? t = none) :
    exec (.queryRequest q [t]) s = .next (s.answered q (replyFrame q 0x04#8 .noSuchTag [])) := by
  dsimp only [exec]
  refine State.byte_answered h _ ?_
  have he' : (s.accepted q).entry? t = none := he
  rw [he']

theorem exec_queryRequest_some {t : Tag} {e : Entry} (he : s.entry? t = some e) :
    exec (.queryRequest q [t]) s = .next
      (s.answered q
        (replyFrame q 0x04#8 .ok (s.requestFields e (s.queue.entries.findIdx fun x => x.tag == t)))) := by
  dsimp only [exec]
  refine State.byte_answered h _ ?_
  have he' : (s.accepted q).entry? t = some e := he
  rw [he']
  rfl

theorem exec_queryStatus : exec (.queryStatus q []) s = .next (s.answered q (replyFrame q 0x02#8 .ok s.statusFields)) := by
  dsimp only [exec]
  exact State.empty_answered h _ rfl

end

theorem State.stageFields_idle {s : State} (hj : s.seq.job = none) (e : Entry) :
    s.stageFields e = [0xFF#8, 0x00#8, 0xFF#8, 0xFF#8, 0xFF#8] := by
  rw [State.stageFields, hj]
  rfl

theorem State.stageFields_job {s : State} {j : Job} (hj : s.seq.job = some j) (e : Entry) :
    s.stageFields e =
      if e.state = .running ∧ j.kind = .entry e.tag then
        [optByte (j.stage.bind Stage.code), flagByte (j.onReturn.isSome && j.stage.any Stage.ofReturn)]
          ++ locField ((j.audit.map (·.current)).map s.view)
      else [0xFF#8, 0x00#8, 0xFF#8, 0xFF#8, 0xFF#8] := by
  rw [State.stageFields, hj]
  cases e.state with
  | running =>
    rw [Option.map_map]
    by_cases hk : j.kind = .entry e.tag
    · exact (if_pos hk).trans (if_pos ⟨rfl, hk⟩).symm
    · exact (if_neg hk).trans (if_neg fun h => hk h.2).symm
  | _ => exact (if_neg fun h => nomatch h.1).symm

/-- Settles O13. -/
theorem queriesReport : Obligations.QueriesReport := by
  refine ⟨fun q s body o h hb => ⟨fun hp => ?malformed, fun hp => ?malformedTag⟩, fun q s h => ?describe, fun q s h => ?map,
    fun q t s h => ⟨exec_queryRequest_none h, fun e he => ?request⟩, fun q s h => ?status, ?codes⟩
  case malformed =>
    exact ⟨State.request_badFormat h _ hb hp, State.request_badFormat h _ hb hp, State.request_badFormat h _ hb hp⟩
  case malformedTag => exact State.request_badFormat h _ hb hp
  case describe =>
    dsimp only [exec]
    exact State.empty_answered h _ rfl
  case map =>
    dsimp only [exec]
    exact State.empty_answered h _ rfl
  case request =>
    intro place text stageOf stage range counts
    obtain rfl := State.entry?_tag he
    have hplace : place = fun x => locField (x.map s.view) := funext fun x => (locField_view s x).symm
    have htext : text = labelField := by funext l; cases l <;> rfl
    have hstageOf : stageOf = fun st back =>
        [optByte (st.bind Stage.code), flagByte (back && st.any Stage.ofReturn)] := by
      funext st back
      cases st with
      | none => cases back <;> rfl
      | some st => cases st with
        | travel t => cases t <;> cases back <;> rfl
        | _ => cases back <;> rfl
    clear_value place text stageOf
    subst hplace htext hstageOf
    have hstage : stage = s.stageFields e := by
      cases hj : s.seq.job with
      | none => simp only [stage, State.stageFields_idle hj, hj]
      | some j => simp only [stage, State.stageFields_job hj, hj]
    have hcounts : counts = s.countFields e := rfl
    have hresult : (match e.result with
        | some r => r.code
        | none => 0xFF#8) = optByte (e.result.map (·.code.toNat)) := by
      cases e.result with
      | none => rfl
      | some r => exact (byteOf_of_toNat r.code).symm
    have hwait : (match e.state with
        | .waitingDrive .eject => 0x00#8
        | .waitingDrive .load => 0x01#8
        | _ => 0xFF#8) = e.state.waitByte := by
      cases e.state with
      | waitingDrive w => cases w <;> rfl
      | _ => rfl
    have hexec := exec_queryRequest_some h he
    rw [State.requestFields, ← hwait, ← hresult, ← hstage, ← hcounts] at hexec
    exact hexec
  case status =>
    have hreturn : (if s.ctl.mode = .holding then s.ctl.ret.lib.code else 0xFF#8) =
        optByte (if s.ctl.mode = .holding then some s.ctl.ret.lib.code.toNat else none) := by
      split
      · exact (byteOf_of_toNat _).symm
      · rfl
    have hnewest : (match s.store.newest with
        | some .bank0 => 0x00#8
        | some .bank1 => 0x01#8
        | none => 0xFF#8) = optByte (s.store.newest.map (·.code.toNat)) := by
      cases s.store.newest with
      | none => rfl
      | some b => cases b <;> rfl
    have hexec := exec_queryStatus h
    rw [State.statusFields, ← hreturn, ← hnewest] at hexec
    exact ⟨[s.seq.internalJob], [statusFlags s.queue.hold s.ctl.stopLine s.store.unsaved s.store.commit.isSome
        s.store.commitPending], be16 (summaryBits s.notices.summary), hexec, rfl,
      congrArg (fun b => [b]) (statusFlags_eq _ _ _ _ _), _, rfl, summaryBits_kind _⟩
  case codes =>
    exact ⟨fun r => by cases r <;> rfl, fun w => by cases w <;> rfl, rfl, rfl, rfl, rfl, rfl, rfl, rfl, rfl, rfl⟩

end Sys2Proof.Machine

/-! SUPPORT. QUERY_LOCATIONS (R12, R13, R181 to R183). -/

namespace Sys2Proof.Machine

/-! ### O14 -/

theorem recordFlags_kept (dup retired : Bool) : recordFlags dup retired false = byteOf (dup.toNat + 2 * retired.toNat) := by
  unfold recordFlags bitsOf bitsOf bitsOf bitsOf
  congr 1

/-- What a run of records of `n` places comes to. -/
def State.run (s : State) (k : RefKind) (first n : Nat) : List Byte :=
  (List.range n).flatMap fun i => s.record k (first + i)

theorem State.run_succ (s : State) (k : RefKind) (first n : Nat) :
    s.run k first (n + 1) = s.record k first ++ s.run k (first + 1) n := by
  unfold State.run
  rw [List.range_succ_eq_map, List.flatMap_cons, List.flatMap_map]
  congr 2
  funext i
  congr 1
  omega

/-- A reply takes as many records as its places and its bytes hold (R13, R183). -/
theorem State.fill_run (s : State) (k : RefKind) (last room i bytes : Nat) (hi : i ≤ last + 1) :
    ∃ n ≤ room, i + n ≤ last + 1
      ∧ s.fill k last room i bytes = (s.run k i n, n, if i + n ≤ last then some (i + n) else none)
      ∧ (s.run k i n).length ≤ bytes
      ∧ (n = room ∨ last < i + n ∨ bytes < (s.run k i (n + 1)).length) := by
  induction room generalizing i bytes with
  | zero => exact ⟨0, le_rfl, hi, rfl, Nat.zero_le _, .inl rfl⟩
  | succ room ih =>
    unfold State.fill
    by_cases hl : last < i
    · exact ⟨0, Nat.zero_le _, hi, by rw [if_pos hl, if_neg (by omega)]; rfl, Nat.zero_le _, .inr (.inl hl)⟩
    · rw [if_neg hl]
      dsimp only
      by_cases hr : (s.record k i).length ≤ bytes
      · obtain ⟨n, hn, hin, hfill, hlen, hmax⟩ := ih (i + 1) (bytes - (s.record k i).length) (by omega)
        have hnext : i + 1 + n = i + (n + 1) := by omega
        refine ⟨n + 1, Nat.succ_le_succ hn, hnext ▸ hin, ?_, ?_, ?_⟩
        · rw [if_pos hr, hfill, s.run_succ, hnext]
        · rw [s.run_succ, List.length_append]
          omega
        · rw [s.run_succ k i (n + 1), List.length_append]
          omega
      · refine ⟨0, Nat.zero_le _, hi, by rw [if_neg hr, if_pos (by omega)]; rfl, Nat.zero_le _, .inr (.inr ?_)⟩
        rw [s.run_succ, List.length_append]
        omega

theorem refused_past {bound last : Nat} (st : Status) :
    (if last < bound then none else some st) = if bound ≤ last then some st else none := by
  by_cases h : last < bound
  · rw [if_pos h, if_neg (Nat.not_le.2 h)]
  · rw [if_neg h, if_pos (Nat.not_lt.1 h)]

theorem State.rangeRefusal_eq (s : State) (b : RangeBody) : s.rangeRefusal b =
    if b.kind = .label then some .referenceNotAllowed
    else if b.last < b.first then some .outOfRange
    else if b.kind = .logical ∧ s.map.exposed ≤ b.last then some .noSuchLocation
    else if b.kind = .physical ∧ s.nPhys ≤ b.last then some .noSuchLocation
    else if b.kind = .bay ∧ s.nBays ≤ b.last then some .driveAbsent
    else if b.kind = .port ∧ 5 < b.last then some .noSuchLocation
    else if b.kind = .gripper ∧ (b.first ≠ 0 ∨ b.last ≠ 0) then some .noSuchLocation
    else none := by
  unfold State.rangeRefusal
  by_cases hlabel : b.kind = .label
  · rw [if_pos hlabel, if_pos hlabel]
  rw [if_neg hlabel, if_neg hlabel]
  refine if_congr Iff.rfl rfl ?_
  cases hk : b.kind with
  | logical | physical | bay => simp [refused_past]
  | port =>
    simp only [refused_past, reduceCtorEq, false_and, if_false, true_and]
    rfl
  | gripper => by_cases hf : b.first = 0 <;> by_cases hl : b.last = 0 <;> simp [hf, hl]
  | label => exact absurd hk hlabel

theorem State.fill_congr {s u : State} (h : u.record = s.record) (k : RefKind) (last room i bytes : Nat) :
    u.fill k last room i bytes = s.fill k last room i bytes := by
  induction room generalizing i bytes with
  | zero => rfl
  | succ room ih =>
    unfold State.fill
    simp only [h, ih]

theorem State.rangeFields_congr {s u : State} (h : u.record = s.record) (b : RangeBody) :
    u.rangeFields b = s.rangeFields b := by
  unfold State.rangeFields
  rw [State.fill_congr h]

theorem exec_queryLocations {q : Byte} {s : State} {b : RangeBody} (h : s.takes q) (hw : b.wellFormed = true) :
    (∀ st, s.rangeRefusal b = some st →
      exec (.queryLocations q b.bytes) s = .next (s.answered q (replyFrame q 0x03#8 st [])))
    ∧ (s.rangeRefusal b = none →
      exec (.queryLocations q b.bytes) s = .next (s.answered q (replyFrame q 0x03#8 .ok (s.rangeFields b)))) := by
  have hb : b.bytes.length ≤ Config.bodyMax := Nat.le_of_ble_eq_true rfl
  dsimp only [exec]
  refine ⟨fun st hr => ?_, fun hr => ?_⟩
  · refine State.request_answered h _ hb (parseRange_spelled hw).read ?_
    have hr' : (s.accepted q).rangeRefusal b = some st := hr
    rw [hr']
  · refine State.request_answered h _ hb (parseRange_spelled hw).read ?_
    have hr' : (s.accepted q).rangeRefusal b = none := hr
    rw [hr']
    exact congrArg (fun fs => (s.accepted q).reply q 0x03#8 .ok fs)
      (State.rangeFields_congr (u := s.accepted q) (s := s) rfl b)

/-- The fields of a range that is not refused: whole records in ascending order, and the continuation index. -/
theorem State.rangeFields_run (s : State) {b : RangeBody} (h : b.first ≤ b.last) :
    ∃ n ≤ 8, b.first + n ≤ b.last + 1
      ∧ s.rangeFields b =
          [byteOf n, if b.first + n ≤ b.last then byteOf (b.first + n) else 0xFF#8] ++ s.run b.kind b.first n
      ∧ (s.run b.kind b.first n).length ≤ 236
      ∧ (n = 8 ∨ b.last < b.first + n ∨ 236 < (s.run b.kind b.first (n + 1)).length) := by
  obtain ⟨n, hn, hle, hfill, hlen, hmax⟩ := s.fill_run b.kind b.last recordsMax b.first recordRoom (by omega)
  refine ⟨n, hn, hle, ?_, hlen, hmax⟩
  unfold State.rangeFields
  rw [hfill]
  dsimp only
  split <;> rfl

/-- The records, laid out (R182). -/
theorem State.slotRecord_eq (s : State) (kind index : Nat) (cross : Option Nat) (p : Nat) :
    let r := s.inv.place (.slot p)
    s.slotRecord kind index cross p =
      [byteOf kind, byteOf index, byteOf (r.dup.toNat + 2 * (s.map.retired p).toNat), r.occ.code, optByte cross,
          byteOf (s.map.faultCount p), 0xFF#8]
        ++ labelField r.holds ++ (byteOf r.claims.length :: r.claims) := by
  intro r
  rw [State.slotRecord, recordFlags_kept, PlaceRec.tail]
  simp [r]

theorem State.otherRecord_eq (s : State) (x : Loc) (st : Byte) :
    let r := s.inv.place x
    s.otherRecord x st =
      x.codes ++ [byteOf (r.dup.toNat + 2 * false.toNat), r.occ.code, 0xFF#8, 0xFF#8, st]
        ++ labelField r.holds ++ (byteOf r.claims.length :: r.claims) := by
  intro r
  rw [State.otherRecord, recordFlags_kept, PlaceRec.tail]
  simp [r]

/-- Settles O14. -/
theorem queryLocationsAnswers : Obligations.QueryLocationsAnswers := by
  refine ⟨fun q s body o h hb hp => State.request_badFormat h _ hb hp, fun q s b h hw => ?_, fun s => ?_⟩
  · intro refusal
    have hrefusal : refusal = s.rangeRefusal b := (s.rangeRefusal_eq b).symm
    obtain ⟨hrefused, htaken⟩ := exec_queryLocations h hw
    rw [hrefusal]
    refine ⟨hrefused, fun hr => ?_⟩
    have hle : b.first ≤ b.last := by
      rw [State.rangeRefusal] at hr
      split at hr
      · cases hr
      · split at hr
        · cases hr
        · omega
    obtain ⟨n, hn, hend, hfields, hlen, hmax⟩ := s.rangeFields_run hle
    exact ⟨n, hn, hend, hfields ▸ htaken hr, hlen, hmax⟩
  · intro full
    refine ⟨fun l p hp => ?_, fun l hp => ?_, fun p => ?_, fun n => s.otherRecord_eq _ _, fun n => s.otherRecord_eq _ _,
      s.otherRecord_eq _ _⟩
    · rw [State.record, hp]
      exact s.slotRecord_eq 0 l (some p) p
    · rw [State.record, hp]
      rfl
    · have hrecord := s.slotRecord_eq 1 p (s.map.logicalOf s.nPhys p) p
      rw [optByte_number] at hrecord
      exact hrecord

end Sys2Proof.Machine

/-! SUPPORT. RESET SOFT (R15, R62, R67, R75, R113, R125, R127, R151, R159, R162, R173). -/

namespace Sys2Proof.Machine

/-! ### The stage in progress -/

theorem State.stageLocation_none {s : State} (h : s.running? = none ∨ s.seq.job = none) : s.stageLocation = none := by
  unfold State.stageLocation
  split
  next hj he => simp [hj, he] at h
  next => rfl

/-! ### Attentions asked for in an empty queue -/

/-- The notices of a part that has told `told` since its queue was emptied with the next number `n`. -/
def Notices.telling (n : Word16) (interval : Nat) (told : List NoticeBody) : Notices :=
  ⟨told.zipIdx.map fun p => ⟨n + BitVec.ofNat 16 p.2, 1, p.1⟩, [], [], n + BitVec.ofNat 16 told.length,
    if told = [] then none else some interval⟩

theorem Notices.telling_append (n : Word16) (i : Nat) (told : List NoticeBody) (b : NoticeBody) :
    Notices.telling n i (told ++ [b]) =
      ⟨(Notices.telling n i told).queue ++ [⟨(Notices.telling n i told).next, 1, b⟩], [], [],
        (Notices.telling n i told).next + 1, some i⟩ := by
  have hnext : n + BitVec.ofNat 16 (told.length + 1) = n + BitVec.ofNat 16 told.length + 1 := by
    rw [BitVec.ofNat_add, ← BitVec.add_assoc]
    rfl
  simp [Notices.telling, List.zipIdx_append, hnext]

/-- A number not yet given is in no frame. -/
theorem Notices.telling_fresh {n : Word16} {i : Nat} {told : List NoticeBody} (h : told.length < 24) :
    ∀ m ∈ (Notices.telling n i told).queue, m.number ≠ (Notices.telling n i told).next := by
  intro m hm
  obtain ⟨⟨b, k⟩, hb, rfl⟩ := List.mem_map.1 hm
  have hk : k < told.length := by simpa using List.snd_lt_of_mem_zipIdx hb
  show n + BitVec.ofNat 16 k ≠ n + BitVec.ofNat 16 told.length
  intro he
  have hne := congrArg BitVec.toNat ((BitVec.add_right_inj n).1 he)
  simp only [BitVec.toNat_ofNat] at hne
  omega

/-- The state with the notices of a part that has told `told` since its queue was emptied, each in its frame. -/
def State.telling (s : State) (n : Word16) (told : List NoticeBody) : State :=
  { s with
    notices := .telling n s.params.repeatInterval told,
    link := { s.link with noticeFrames := (Notices.telling n s.params.repeatInterval told).queue } }

/-- An attention asked for while less than 24 are in the queue is told (R142, R147). -/
theorem State.telling_askAttention (s : State) (n : Word16) {told : List NoticeBody} (h : told.length < 24) (a : Attention) :
    (s.telling n told).askAttention a = s.telling n (told ++ [.attention a]) := by
  have hlen : (s.telling n told).notices.queue.length < 24 := by
    simpa [State.telling, Notices.telling] using h
  rw [State.askAttention_eq, if_pos ⟨rfl, hlen, rfl⟩]
  have hfresh : ¬ ∃ m ∈ (s.telling n told).link.noticeFrames, m.number = (s.telling n told).notices.next :=
    fun ⟨m, hm, hn⟩ => Notices.telling_fresh h m hm hn
  have htimer : (if (s.telling n told).notices.queue.isEmpty then some s.params.repeatInterval
      else (s.telling n told).notices.repeatTimer) = some s.params.repeatInterval := by
    cases told <;> rfl
  unfold State.enterNotice
  dsimp only
  rw [Link.hand_eq, if_neg hfresh]
  unfold State.telling at htimer ⊢
  rw [Notices.telling_append]
  dsimp only at htimer ⊢
  rw [htimer]
  rfl

/-- An inventory update is one attention at the most, and none where it creates no duplication (R11). -/
theorem State.telling_inventoryUpdate (s : State) (n : Word16) (f : Inventory → Inventory) :
    ∃ ds : List NoticeBody, ds.length ≤ 1 ∧ (∀ b ∈ ds, ∃ l y k, b = .attention (.duplicateLabel l y k))
      ∧ ((∀ x l, ¬ s.inv.Creates (f s.inv) x l) → ds = [])
      ∧ (s.telling n []).inventoryUpdate f = State.telling { s with inv := (f s.inv).reflag } n ds := by
  by_cases hc : ∀ x l, ¬ s.inv.Creates (f s.inv) x l
  · exact ⟨[], by simp, by simp, fun _ => rfl, State.inventoryUpdate_plain (s := s.telling n []) hc⟩
  · cases hd : s.inv.duplicationTo (f s.inv).reflag with
    | none =>
      refine ⟨[], by simp, by simp, fun _ => rfl, ?_⟩
      unfold State.inventoryUpdate
      simp only [State.telling, hd]
    | some d =>
      obtain ⟨l, y, k⟩ := d
      refine ⟨[.attention (.duplicateLabel l y k)], by simp, by simp, fun h => absurd h hc, ?_⟩
      refine Eq.trans ?_ (State.telling_askAttention { s with inv := (f s.inv).reflag } n (told := []) (by simp)
        (.duplicateLabel l y k))
      unfold State.inventoryUpdate
      simp only [State.telling, hd]

/-- What a start tells of the mode (R127). -/
def LibMode.told (old new : LibMode) (c : ModeCause) : List NoticeBody :=
  if old = new then [] else [.attention (.modeChanged (some old) new none c none)]

theorem LibMode.append_told (old new : LibMode) (c : ModeCause) (ds : List NoticeBody) :
    ds ++ LibMode.told old new c =
      if old = new then ds else ds ++ [.attention (.modeChanged (some old) new none c none)] := by
  unfold LibMode.told
  split
  · exact ds.append_nil
  · rfl

/-- The part with the mode of a start, homing where the stop line lets it (R154, R155). -/
def State.startedIn (s : State) : State :=
  State.homeIfReleased { s with ctl := { s.ctl with mode := s.startMode } }

theorem State.telling_homeIfReleased (s : State) (n : Word16) (told : List NoticeBody) :
    (s.telling n told).homeIfReleased = s.homeIfReleased.telling n told := by
  by_cases hl : s.ctl.stopLine = true
  · exact (if_pos hl).trans (congrArg (State.telling · n told) (if_pos hl).symm)
  · have hordered : (s.telling n told).beginHoming = s.beginHoming.telling n told := rfl
    exact (if_neg hl).trans (hordered.trans (congrArg (State.telling · n told) (if_neg hl).symm))

theorem State.telling_restart (s : State) (n : Word16) {told : List NoticeBody} (h : told.length < 24)
    (hp : s.seq.parkTimer = none) (c : ModeCause) :
    (s.telling n told).restart c = s.startedIn.telling n (told ++ LibMode.told s.ctl.mode s.startMode c) := by
  have hmode : (if (s.telling n told).ctl.mode = (s.telling n told).startMode then s.telling n told
        else (s.telling n told).setMode (s.telling n told).startMode c)
      = State.telling { s with ctl := { s.ctl with mode := s.startMode } } n
          (told ++ LibMode.told s.ctl.mode s.startMode c) := by
    by_cases hm : s.ctl.mode = s.startMode
    · have hs : { s with ctl := { s.ctl with mode := s.startMode } } = s := by rw [← hm]
      rw [LibMode.told, if_pos hm, List.append_nil, hs]
      exact if_pos hm
    · refine (if_neg hm).trans ?_
      have hstart : s.startMode = .stopped ∨ s.startMode = .initializing := by
        unfold State.startMode
        cases s.ctl.stopLine <;> simp
      have hheld : s.startMode ≠ .holding := by
        rcases hstart with h | h <;> simp [h]
      rw [LibMode.told, if_neg hm, ← State.telling_askAttention _ n h]
      have hset := (s.telling n told).setMode_eq s.startMode c none
      rw [if_pos hstart, if_neg hheld, ← hp] at hset
      exact hset
  rw [State.restart, hmode]
  exact State.telling_homeIfReleased _ _ _

/-! ### The inventory of the reset -/

section
variable (s : State) (v : Inventory)

theorem PlaceRec.holds_set (p : PlaceRec) (o : Occ) (l : Option Label) :
    (p.set o l).holds = if o = .occupied then l else none := by
  cases o <;> simp [PlaceRec.holds, PlaceRec.set]

@[simp] theorem Inventory.locations_put (x : Loc) (o : Occ) (l : Option Label) :
    (v.put x o l).locations = v.locations := v.locations_modify x _

@[simp] theorem State.locations_deriveBayPlaces : (s.deriveBayPlaces v).locations = v.locations := by
  simp [State.deriveBayPlaces, Inventory.locations]

theorem State.place_deriveBayPlaces_bay {n : Nat} (h : .bay n ∈ v.locations) :
    (s.deriveBayPlaces v).place (.bay n) = (v.place (.bay n)).set (s.derivedBay n).occ (s.resetLabel n) := by
  have hn := (v.mem_locations_bay n).1 h
  simp [State.deriveBayPlaces, Inventory.place, List.getD_eq_getElem?_getD, hn]

theorem State.place_deriveBayPlaces_other {y : Loc} (h : ∀ n, y ≠ .bay n) : (s.deriveBayPlaces v).place y = v.place y := by
  cases y with
  | bay n => exact absurd rfl (h n)
  | slot n | cell n | gripper => rfl

/-- The noted stage location becomes UNKNOWN, but for a bay. -/
def Inventory.unsettled (x : Option Loc) : Inventory :=
  match x with
  | some (.bay _) => v
  | some l => v.put l .unknown none
  | none => v

theorem State.resetInventory_unsettled (x : Option Loc) :
    s.resetInventory x v = ((s.deriveBayPlaces v).unsettled x).gripperSensed s.pins.gripper := by
  unfold State.resetInventory Inventory.unsettled
  cases x with
  | none => rfl
  | some y => cases y <;> rfl

@[simp] theorem Inventory.locations_unsettled (x : Option Loc) : (v.unsettled x).locations = v.locations := by
  cases x with
  | none => rfl
  | some y =>
    cases y with
    | bay n => rfl
    | slot n | cell n | gripper => exact v.locations_put _ _ _

theorem Inventory.place_unsettled_same {y : Loc} (hb : ∀ n, y ≠ .bay n) (hy : y ∈ v.locations) :
    (v.unsettled (some y)).place y = (v.place y).set .unknown none := by
  cases y with
  | bay n => exact absurd rfl (hb n)
  | slot n | cell n | gripper => exact v.place_modify_same hy _

theorem Inventory.place_unsettled_bay (x : Option Loc) (n : Nat) : (v.unsettled x).place (.bay n) = v.place (.bay n) := by
  cases x with
  | none => rfl
  | some y => cases y <;> rfl

theorem Inventory.place_unsettled_ne {x : Option Loc} {y : Loc} (h : some y ≠ x) :
    (v.unsettled x).place y = v.place y := by
  cases x with
  | none => rfl
  | some z =>
    have hz : z ≠ y := fun k => h (congrArg some k.symm)
    cases z with
    | bay n => rfl
    | slot n | cell n | gripper => exact v.place_modify_ne hz _

theorem Inventory.place_gripperSensed_gripper (g : Bool) :
    (v.gripperSensed g).place .gripper =
      (v.place .gripper).set (if g then .occupied else .empty) (v.place .gripper).holds := rfl

theorem Inventory.place_gripperSensed_ne {y : Loc} (h : y ≠ .gripper) (g : Bool) :
    (v.gripperSensed g).place y = v.place y := v.place_modify_ne (Ne.symm h) _

@[simp] theorem State.locations_resetInventory (x : Option Loc) : (s.resetInventory x v).locations = v.locations := by
  rw [State.resetInventory_unsettled]
  refine (Inventory.locations_put _ _ _ _).trans ?_
  rw [Inventory.locations_unsettled, State.locations_deriveBayPlaces]

theorem State.place_resetInventory_bay (x : Option Loc) {n : Nat} (h : .bay n ∈ v.locations) :
    (s.resetInventory x v).place (.bay n) = (v.place (.bay n)).set (s.derivedBay n).occ (s.resetLabel n) := by
  rw [State.resetInventory_unsettled, Inventory.place_gripperSensed_ne _ (by simp), Inventory.place_unsettled_bay,
    State.place_deriveBayPlaces_bay _ _ h]

theorem State.place_resetInventory_gripper {x : Option Loc} :
    (s.resetInventory x v).place .gripper =
      (((s.deriveBayPlaces v).unsettled x).place .gripper).set (if s.pins.gripper then .occupied else .empty)
        (if x = some .gripper then none else (v.place .gripper).holds) := by
  rw [State.resetInventory_unsettled, Inventory.place_gripperSensed_gripper]
  congr 1
  by_cases hx : x = some .gripper
  · rw [if_pos hx, hx]
    rfl
  · rw [if_neg hx, Inventory.place_unsettled_ne _ (Ne.symm hx)]
    rfl

theorem State.place_resetInventory_stage {y : Loc} (hb : ∀ n, y ≠ .bay n) (hg : y ≠ .gripper) (hy : y ∈ v.locations) :
    (s.resetInventory (some y) v).place y = (v.place y).set .unknown none := by
  rw [State.resetInventory_unsettled, Inventory.place_gripperSensed_ne _ hg,
    Inventory.place_unsettled_same _ hb (by simpa using hy), State.place_deriveBayPlaces_other _ _ hb]

theorem State.place_resetInventory_other {x : Option Loc} {y : Loc} (hb : ∀ n, y ≠ .bay n) (hg : y ≠ .gripper)
    (hx : some y ≠ x) : (s.resetInventory x v).place y = v.place y := by
  rw [State.resetInventory_unsettled, Inventory.place_gripperSensed_ne _ hg, Inventory.place_unsettled_ne _ hx,
    State.place_deriveBayPlaces_other _ _ hb]

end

/-- The label of a record in order is the one its location holds. -/
theorem RecordOk.label_eq {p : PlaceRec} (h : RecordOk p) : p.label = p.holds := by
  unfold PlaceRec.holds
  split
  next => rfl
  next ho => exact Option.not_isSome_iff_eq_none.1 fun k => ho (h k)

/-- Where every label stands in an OCCUPIED record, the reset gives no location a label it did not hold. -/
theorem State.resetInventory_gives_none {s : State} (hl : ∀ p ∈ s.inv.records, RecordOk p) (x : Option Loc) (y : Loc)
    (l : Label) : ¬ s.inv.Creates (s.resetInventory x s.inv) y l := by
  rintro ⟨hy, hafter, hbefore, -⟩
  rw [State.locations_resetInventory] at hy
  have hgiven : ∀ {c : Prop} [Decidable c], (if c then (s.inv.place y).holds else none) ≠ some l := by
    intro c _ hc
    split at hc
    next => exact hbefore hc
    next => cases hc
  by_cases hb : ∃ n, y = .bay n
  · obtain ⟨n, rfl⟩ := hb
    have hok : RecordOk (s.inv.place (.bay n)) := hl _ (s.inv.records_eq ▸ List.mem_map_of_mem hy)
    rw [State.place_resetInventory_bay _ _ _ hy, PlaceRec.holds_set, State.resetLabel_eq, hok.label_eq, ← ite_and] at hafter
    exact hgiven hafter
  · have hb' : ∀ n, y ≠ .bay n := fun n h => hb ⟨n, h⟩
    by_cases hg : y = .gripper
    · subst hg
      rw [State.place_resetInventory_gripper, PlaceRec.holds_set, ← ite_not (x = some Loc.gripper), ← ite_and] at hafter
      exact hgiven hafter
    · by_cases hx : x = some y
      · subst hx
        rw [State.place_resetInventory_stage _ _ hb' hg hy, PlaceRec.holds_set] at hafter
        cases hafter
      · rw [State.place_resetInventory_other _ _ hb' hg (Ne.symm hx)] at hafter
        exact hbefore hafter

/-! ### The states of the reset -/

/-- The part halted, sampled and with no entry, claim or notice, before the bays are derived (R62, R67, R125, R151). -/
def State.emptied (s : State) (l : Link) (x : Sense) : State :=
  { s with
    pins := samplePins s.pins x, link := { l with noticeFrames := [] }, queue := ⟨[], false, s.queue.accepted⟩,
    inv := s.inv.mapAll fun p => { p with claims := [] }, seq := ⟨none, .unhomed, none, none⟩, mech := s.mech.clear,
    port := { s.port with mark := s.port.mark.halted }, notices := .telling s.notices.next s.params.repeatInterval [] }

theorem State.emptied_eq (s : State) (l : Link) (x : Sense) :
    (State.sample { s with link := l } x).haltJob.discardEntries.emptyNotices = s.emptied l x := by
  simp [State.emptied, Notices.telling, State.sample, State.haltJob, State.discardEntries, State.emptyNotices]

/-- The inventory of the reset. -/
def State.inventoryReset (s : State) (l : Link) (x : Sense) : Inventory :=
  (s.emptied l x).resetInventory s.stageLocation (s.emptied l x).inv

theorem Inventory.records_mapAll (v : Inventory) (f : PlaceRec → PlaceRec) : (v.mapAll f).records = v.records.map f := by
  simp [Inventory.mapAll, Inventory.records]

/-- The part as the reset's start finds it (R15, R113). -/
def State.derivedAfresh (s : State) (l : Link) (x : Sense) : State :=
  { (s.emptied l x).deriveBays with inv := (s.inventoryReset l x).reflag }

/-- The reset halts, discards, derives and starts; what it tells is the duplication its update creates, if any, and
the mode. -/
theorem State.softReset_started (s : State) (l : Link) (x : Sense) :
    ∃ ds : List NoticeBody, ds.length ≤ 1 ∧ (∀ b ∈ ds, ∃ l y k, b = .attention (.duplicateLabel l y k))
      ∧ (LabelsOk s → ds = [])
      ∧ (State.sample { s with link := l } x).softReset =
          (s.derivedAfresh l x).startedIn.telling s.notices.next (ds ++ LibMode.told s.ctl.mode s.startMode .reset) := by
  obtain ⟨ds, hlen, hds, hok, hupd⟩ := (s.emptied l x).deriveBays.telling_inventoryUpdate s.notices.next
    ((s.emptied l x).resetInventory s.stageLocation)
  refine ⟨ds, hlen, hds, fun hl => hok fun y k => ?_, ?_⟩
  · refine State.resetInventory_gives_none (s := s.emptied l x) (fun p hp => ?_) _ y k
    obtain ⟨r, hr, rfl⟩ := List.mem_map.1 ((s.inv.records_mapAll _) ▸ hp)
    exact (hl r hr).1
  · have hstage : (State.sample { s with link := l } x).stageLocation = s.stageLocation := rfl
    have htold : (s.emptied l x).deriveBays.telling s.notices.next [] = (s.emptied l x).deriveBays := rfl
    rw [htold] at hupd
    unfold State.softReset
    dsimp only
    rw [State.emptied_eq, hstage, State.resetUpdate_eq, hupd]
    exact State.telling_restart (s.derivedAfresh l x) _ (by omega) rfl .reset

/-! ### What the reset leaves of the inventory -/

section
variable (s : State) (l : Link) (x : Sense)

theorem State.locations_inventoryReset : (s.inventoryReset l x).locations = s.inv.locations := by
  rw [State.inventoryReset, State.locations_resetInventory]
  exact s.inv.locations_mapAll _

theorem Inventory.occ_reflag (v : Inventory) (y : Loc) : (v.reflag.place y).occ = (v.place y).occ := by
  by_cases h : y ∈ v.locations
  · rw [Inventory.place_reflag h]
  · rw [Inventory.place_outside _ h, Inventory.place_outside _ (by rwa [Inventory.locations_reflag])]

theorem State.emptied_place {y : Loc} (h : y ∈ s.inv.locations) :
    (s.emptied l x).inv.place y = { s.inv.place y with claims := [] } := Inventory.place_mapAll h _

theorem State.claims_resetInventory (v : Inventory) (x : Option Loc) {y : Loc} (h : y ∈ v.locations) :
    ((s.resetInventory x v).place y).claims = (v.place y).claims := by
  cases y with
  | bay n => rw [State.place_resetInventory_bay _ _ _ h]; rfl
  | gripper =>
    rw [State.place_resetInventory_gripper]
    by_cases hx : x = some .gripper
    · rw [hx, Inventory.place_unsettled_same _ (by simp) (by simp)]
      rfl
    · rw [Inventory.place_unsettled_ne _ (Ne.symm hx)]
      rfl
  | slot n =>
    by_cases hx : x = some (.slot n)
    · rw [hx, State.place_resetInventory_stage _ _ (by simp) (by simp) h]
      rfl
    · rw [State.place_resetInventory_other _ _ (by simp) (by simp) (Ne.symm hx)]
  | cell n =>
    by_cases hx : x = some (.cell n)
    · rw [hx, State.place_resetInventory_stage _ _ (by simp) (by simp) h]
      rfl
    · rw [State.place_resetInventory_other _ _ (by simp) (by simp) (Ne.symm hx)]

theorem State.inventoryReset_claims : ∀ p ∈ (s.inventoryReset l x).reflag.records, p.claims = [] := by
  intro p hp
  rw [Inventory.records_eq, Inventory.locations_reflag] at hp
  obtain ⟨y, hy, rfl⟩ := List.mem_map.1 hp
  rw [Inventory.place_reflag hy]
  rw [State.locations_inventoryReset] at hy
  refine (State.claims_resetInventory _ _ _ ((s.inv.locations_mapAll _).symm ▸ hy)).trans ?_
  rw [State.emptied_place _ _ _ hy]

/-- The gripper is set from its sensor and keeps a label it held, but where it is the stage location. -/
theorem State.inventoryReset_gripper :
    ((s.inventoryReset l x).reflag.place .gripper).occ = (if x.gripper then .occupied else .empty)
      ∧ (s.stageLocation ≠ some .gripper → ((s.inventoryReset l x).reflag.place .gripper).holds =
          if x.gripper then (s.inv.place .gripper).holds else none) := by
  rw [Inventory.occ_reflag, Inventory.holds_reflag, State.inventoryReset, State.place_resetInventory_gripper,
    State.emptied_place _ _ _ s.inv.mem_locations_gripper, PlaceRec.holds_set]
  refine ⟨rfl, fun h => ?_⟩
  rw [if_neg h]
  show (if (if x.gripper then Occ.occupied else .empty) = .occupied then (s.inv.place .gripper).holds else none) = _
  cases x.gripper <;> rfl

/-- A bay's occupancy follows the state it is derived in, and it keeps its label where R113 has it. -/
theorem State.inventoryReset_bay {n : Nat} (h : .bay n ∈ s.inv.locations) (st : BayState)
    (hst : st = derivedState (driveAt (samplePins s.pins x).drives n)) :
    ((s.inventoryReset l x).reflag.place (.bay n)).occ = (if st = .loaded ∨ st = .ejected then .occupied else .empty)
      ∧ ((s.inventoryReset l x).reflag.place (.bay n)).holds =
          if (st = (s.bay n).state ∧ (st = .loaded ∨ st = .ejected))
              ∨ (Config.resetKeepsEjectingLabel ∧ (s.bay n).state = .ejecting ∧ st = .loaded)
            then (s.inv.place (.bay n)).label else none := by
  have hd : (s.emptied l x).derivedBay n = st := hst.symm
  have hb : (s.emptied l x).bay n = s.bay n := rfl
  rw [Inventory.occ_reflag, Inventory.holds_reflag, State.inventoryReset,
    State.place_resetInventory_bay _ _ _ ((s.inv.locations_mapAll _).symm ▸ h), PlaceRec.holds_set, State.resetLabel_eq,
    State.emptied_place _ _ _ h, hd, hb, ← ite_and]
  obtain ⟨hloading, hejecting⟩ := hst ▸ derivedState_settled (driveAt (samplePins s.pins x).drives n)
  cases st with
  | loading => exact absurd rfl hloading
  | ejecting => exact absurd rfl hejecting
  | absent | empty | loaded | ejected => simp [PlaceRec.set, BayState.occ]

/-- A location that is no bay, not the gripper and not the stage location is as it was. -/
theorem State.inventoryReset_other {y : Loc} (hb : ∀ n, y ≠ .bay n) (hg : y ≠ .gripper) (hx : some y ≠ s.stageLocation) :
    ((s.inventoryReset l x).reflag.place y).occ = (s.inv.place y).occ
      ∧ ((s.inventoryReset l x).reflag.place y).holds = (s.inv.place y).holds := by
  rw [Inventory.occ_reflag, Inventory.holds_reflag, State.inventoryReset, State.place_resetInventory_other _ _ hb hg hx]
  by_cases hy : y ∈ s.inv.locations
  · rw [State.emptied_place _ _ _ hy]
    exact ⟨rfl, rfl⟩
  · rw [Inventory.place_outside _ hy, Inventory.place_outside]
    · exact ⟨rfl, rfl⟩
    · exact fun k => hy (s.inv.locations_mapAll _ ▸ k)

/-- The stage location is UNKNOWN, where it is no bay and not the gripper (R75). -/
theorem State.inventoryReset_stage {y : Loc} (hy : y ∈ s.inv.locations) (hb : ∀ n, y ≠ .bay n) (hg : y ≠ .gripper)
    (hx : s.stageLocation = some y) :
    ((s.inventoryReset l x).reflag.place y).occ = .unknown ∧ ((s.inventoryReset l x).reflag.place y).holds = none := by
  rw [Inventory.occ_reflag, Inventory.holds_reflag, State.inventoryReset, hx,
    State.place_resetInventory_stage _ _ hb hg ((s.inv.locations_mapAll _).symm ▸ hy), PlaceRec.holds_set]
  exact ⟨rfl, rfl⟩

end

/-! ### O30 -/

/-- An event in a part with no entry and no mode that serves one ends with the transmitter alone. -/
theorem State.settle_nothing {u : State} (old : State) (hq : u.queue.entries = []) (hm : u.ctl.mode.serves = false)
    (hp : u.seq.picker ≠ .idle) : State.settle old u = { u with link := u.link.startNext } := by
  have hc : State.choose old u = u := by
    unfold State.choose
    split
    · exact State.choices_nothing _ hq hm hp
    · rfl
  unfold State.settle
  rw [hc]

/-- The start from the part derived afresh: it homes where the stop line lets it (R154, R155). -/
theorem State.startedIn_derived (s : State) (l : Link) (x : Sense) :
    (s.derivedAfresh l x).startedIn =
      { s.derivedAfresh l x with
        ctl := { s.ctl with mode := s.startMode },
        seq :=
          ⟨if s.ctl.stopLine then none
            else some { Job.fresh (.homing false) none with stage := some (.home .firstProper) },
            if s.ctl.stopLine then .unhomed else .homing, none, none⟩,
        mech :=
          if s.ctl.stopLine then s.mech.clear
          else ⟨some ⟨s.mech.lastNumber + 1, .home, none⟩, s.mech.lastNumber + 1, some (s.stageLength .home)⟩ } := by
  unfold State.startedIn State.homeIfReleased
  rw [State.beginHoming_ordered]
  by_cases hl : s.ctl.stopLine = true
  · refine (if_pos hl).trans ?_
    simp only [if_pos hl]
    rfl
  · refine (if_neg hl).trans ?_
    simp only [if_neg hl]
    rfl

/-- The link after the acknowledged reply to RESET SOFT. -/
def Link.softReset (l : Link) (q : Byte) : Link :=
  { l with
    receiver := .hunting, lastSeq := some q, cache := some (replyFrame q 0x1A#8 .ok []), replyPending := false,
    replies := l.replies ++ [⟨replyFrame q 0x1A#8 .ok [], false⟩] }

theorem State.ok_softReset (s : State) (q : Byte) :
    (s.accepted q).ok q 0x1A#8 = { s with link := s.link.softReset q } := rfl

theorem exec_resetSoft {body : List Byte} (h : body ≠ [0x01#8]) (q : Byte) (x : Sense) (s : State) :
    exec (.resetSoft q body x) s =
      s.request q 0x1A#8 body parseReset fun s _ => ((s.ok q 0x1A#8).sample x).softReset := if_neg h

/-- RESET SOFT, taken, ends in the start of the part derived afresh. -/
theorem exec_resetSoft_started (q : Byte) (x : Sense) (s : State) (h : s.takes q) :
    ∃ (ds : List NoticeBody) (u : State), ds.length ≤ 1 ∧ (∀ b ∈ ds, ∃ l y k, b = .attention (.duplicateLabel l y k))
      ∧ (LabelsOk s → ds = [])
      ∧ u = (s.derivedAfresh (s.link.softReset q) x).startedIn.telling s.notices.next
          (ds ++ LibMode.told s.ctl.mode s.startMode .reset)
      ∧ exec (.resetSoft q [0x00#8] x) s = .next { u with link := u.link.startNext } := by
  obtain ⟨ds, hlen, hds, hok, hreset⟩ := s.softReset_started (s.link.softReset q) x
  refine ⟨ds, _, hlen, hds, hok, rfl, ?_⟩
  have hparse : parseReset [0x00#8] = .ok .soft := (parseReset_spelled .soft).read
  rw [exec_resetSoft (by decide), State.request_taken h _ (one_carried _) hparse, State.ok_softReset, hreset]
  refine congrArg _ (State.settle_nothing s ?_ ?_ ?_)
  · rw [State.startedIn_derived]
    rfl
  · rw [State.startedIn_derived]
    show s.startMode.serves = false
    unfold State.startMode
    cases s.ctl.stopLine <;> rfl
  · rw [State.startedIn_derived]
    show (if s.ctl.stopLine then Picker.unhomed else .homing) ≠ .idle
    cases s.ctl.stopLine <;> simp

/-- Settles O30. -/
theorem resetSoftResets : Obligations.ResetSoftResets := by
  refine ⟨fun s => ⟨State.stageLocation_none, fun e j he hj => ?_⟩, fun m => by cases m <;> rfl,
    fun q x s h body o hb hp => ?_, fun q x s h => ?_⟩
  · cases hst : j.stage with
    | none => simp only [State.stageLocation, hj, he, hst]
    | some st =>
      cases st with
      | retract k => cases k <;> simp only [State.stageLocation, hj, he, hst, Job.placeAt]
      | place => simp only [State.stageLocation, hj, he, hst, Job.placeAt]
      | pick | travel | home | unpark | park | identify | probe | read => simp only [State.stageLocation, hj, he, hst]
  · rw [exec_resetSoft (parseReset_error hp .full)]
    exact State.request_badFormat h _ hb hp
  · obtain ⟨ds, u, hlen, hds, hok, hu, ht⟩ := exec_resetSoft_started q x s h
    rw [State.startedIn_derived] at hu
    subst hu
    obtain ⟨hocc, hholds⟩ := s.inventoryReset_gripper (s.link.softReset q) x
    refine ⟨_, ht, rfl, s.inventoryReset_claims _ x, ⟨ds, hlen, hds, hok, ?_⟩, rfl, rfl, rfl, rfl, rfl, rfl, rfl, rfl, rfl,
      rfl, rfl, rfl, ?_, hocc, hholds, fun n hn => s.inventoryReset_bay _ x hn _ rfl,
      fun y hb hg hx => s.inventoryReset_other _ x hb hg hx, fun y hy hb hg hx => s.inventoryReset_stage _ x hy hb hg hx⟩
    · exact congrArg (Notices.telling s.notices.next s.params.repeatInterval) (LibMode.append_told _ _ _ ds)
    · show (if s.ctl.stopLine then s.mech.clear else _ : Mech).outstanding = _
      cases s.ctl.stopLine <;> rfl

end Sys2Proof.Machine

/-! SUPPORT. What a choice does: its checks, what it selects and how the job it selects begins (R49 to R54, R68 to R73,
R107, R130). -/

namespace Sys2Proof.Machine

/-! ### The picker, the start checks and eligibility -/

theorem Sequencer.free_iff (q : Sequencer) :
    q.free = true ↔ q.job = none ∧ (q.picker = .idle ∨ q.picker = .parked ∨ q.picker = .unhomed) := by
  simp [Sequencer.free, or_assoc]

/-- The start check of a destination that is not OCCUPIED, or is. -/
theorem State.destStart_eq (s : State) (d : Loc) :
    s.destStart d =
      if (s.inv.place d).occ = .occupied then some .destinationFull
      else match d with
        | .slot p => if s.map.retired p then some .destinationRetired else none
        | .bay n => if (s.bay n).state = .absent then some .driveRemoved else none
        | _ => none := by
  unfold State.destStart
  cases d <;> simp [State.isRetired, State.absentBay]

theorem State.startCheck_move (s : State) {e : Entry} {x d : Loc} (hk : e.kind = .move) (hx : e.source = some x)
    (hd : e.dest = some d) :
    s.startCheck e =
      if (s.inv.place x).occ = .unknown ∨ (s.inv.place d).occ = .unknown then some .locationUnknown
      else if (s.inv.place x).occ = .empty then some .sourceEmpty
      else s.destStart d := by
  simp only [State.startCheck, hk, hx, hd]

theorem State.startCheck_stow (s : State) {e : Entry} {d : Loc} (hk : e.kind = .stow) (hd : e.dest = some d) :
    s.startCheck e = if (s.inv.place d).occ = .unknown then some .locationUnknown else s.destStart d := by
  simp only [State.startCheck, hk, hd]

theorem State.startCheck_scan (s : State) {e : Entry} (hk : e.kind = .scan) : s.startCheck e = none := by
  simp only [State.startCheck, hk]

theorem State.headsClaims_iff (s : State) (e : Entry) :
    s.headsClaims e = true ↔ ∀ x ∈ e.names, (s.inv.place x).claims.head? = some e.tag := by
  simp [State.headsClaims]

theorem LibMode.permits_iff (m : LibMode) (k : ReqKind) :
    m.permits k = true ↔ (k = .stow → m = .holding) ∧ (k ≠ .stow → m = .ready ∨ m = .maintenance) := by
  cases k <;> simp [LibMode.permits, LibMode.serves_eq]

theorem State.mayRun_iff (s : State) (e : Entry) :
    s.mayRun e = true ↔
      e.state = .queued ∧ (∀ x ∈ e.names, (s.inv.place x).claims.head? = some e.tag)
        ∧ (e.kind = .stow → s.ctl.mode = .holding)
        ∧ (e.kind ≠ .stow → s.ctl.mode = .ready ∨ s.ctl.mode = .maintenance) ∧ s.queue.hold = false := by
  simp only [State.mayRun, Bool.and_eq_true, beq_iff_eq, s.headsClaims_iff, LibMode.permits_iff, Bool.not_eq_true',
    and_assoc]

theorem Entry.sourceBay_iff (e : Entry) (n : Nat) :
    e.sourceBay = some n ↔ e.kind = .move ∧ e.source = some (.bay n) := by
  unfold Entry.sourceBay
  split
  next hk hs => simp [hk, hs]
  next h =>
    refine iff_of_false (by simp) fun ⟨hk, hs⟩ => h n hk hs

theorem State.sourceReady_iff (s : State) (e : Entry) :
    s.sourceReady e = true ↔ ∀ n, e.kind = .move → e.source = some (.bay n) →
      (s.bay n).state = .ejected ∨ (s.bay n).state = .empty ∨ (s.bay n).state = .absent := by
  simp only [← and_imp, ← Entry.sourceBay_iff]
  unfold State.sourceReady
  cases e.sourceBay with
  | none => simp
  | some n => simp [or_assoc]

theorem State.eligible_iff (s : State) (e : Entry) :
    s.eligible e = true ↔
      e.state = .queued ∧ (∀ x ∈ e.names, (s.inv.place x).claims.head? = some e.tag)
        ∧ (e.kind = .stow → s.ctl.mode = .holding)
        ∧ (e.kind ≠ .stow → s.ctl.mode = .ready ∨ s.ctl.mode = .maintenance) ∧ s.queue.hold = false
        ∧ ∀ n, e.kind = .move → e.source = some (.bay n) →
            (s.bay n).state = .ejected ∨ (s.bay n).state = .empty ∨ (s.bay n).state = .absent := by
  simp only [State.eligible, Bool.and_eq_true, s.mayRun_iff, s.sourceReady_iff, and_assoc]

/-! ### A choice -/

/-- A choice asserts no eject where no entry's bay is LOADED (R50). -/
theorem State.assertEjects_none {s : State}
    (h : ∀ e ∈ s.queue.entries, e.state = .queued → ∀ n, e.kind = .move → e.source = some (.bay n) →
      (s.bay n).state ≠ .loaded) : s.assertEjects = s := by
  have hnone : ∀ e ∈ s.queue.entries, s.ejectFor e = none := by
    intro e he
    rw [Option.eq_none_iff_forall_ne_some]
    intro n hn
    obtain ⟨hq, hl⟩ := State.ejectFor_some hn
    have hb : e.sourceBay = some n := by
      unfold State.ejectFor at hn
      split at hn
      next m hm => rw [hm, (Option.ite_none_right_eq_some.1 hn).2]
      next => cases hn
    obtain ⟨hk, hs⟩ := (e.sourceBay_iff n).1 hb
    exact h e he hq n hk hs hl
  unfold State.assertEjects
  generalize s.queue.entries = es at hnone
  induction es with
  | nil => rfl
  | cons e es ih =>
    rw [List.forall_mem_cons] at hnone
    rw [List.foldl_cons, hnone.1]
    exact ih hnone.2

section
variable {s a : State} (hf : s.seq.free = true) (ha : s.assertEjects = a) (n : Nat)
include hf ha

theorem State.choices_audit (hd : a.auditDue = true) : State.choices (n + 1) s = a.cancelPark.startAudit := by
  subst ha
  simp only [State.choices, hf, hd, if_true]

theorem State.choices_rest (hd : a.auditDue = false) (he : a.queue.entries.find? a.eligible = none) :
    State.choices (n + 1) s = a.startPark := by
  subst ha
  simp only [State.choices, hf, hd, he, if_true, Bool.false_eq_true, if_false]

theorem State.choices_ends {e : Entry} {r : Result} (hd : a.auditDue = false)
    (he : a.queue.entries.find? a.eligible = some e) (hr : a.startCheck e = some r) :
    State.choices (n + 1) s = State.choices n (a.cancelPark.entryDone e.tag r) := by
  subst ha
  simp only [State.choices, hf, hd, he, hr, if_true, Bool.false_eq_true, if_false]

theorem State.choices_begins {e : Entry} (hd : a.auditDue = false)
    (he : a.queue.entries.find? a.eligible = some e) (hr : a.startCheck e = none) :
    State.choices (n + 1) s = State.choices n (a.cancelPark.startEntry e) := by
  subst ha
  simp only [State.choices, hf, hd, he, hr, if_true, Bool.false_eq_true, if_false]

end

/-! ### How a job begins -/

/-- `t` is `a`, in which the picker is free, after a job of the kind `k` has begun, its first proper order a TRAVEL to
`x` (R69, R72, R73). -/
structure OrderBegun (a t : State) (k : JobKind) (x : Loc) : Prop where
  job : t.seq.job.map Job.kind = some k
  parkTimer : t.seq.parkTimer = a.seq.parkTimer
  idle : a.seq.picker = .idle → t.seq.picker = .busy
    ∧ t.mech = ⟨some ⟨a.mech.lastNumber + 1, .travel, some x⟩, a.mech.lastNumber + 1, some a.params.stageLimit⟩
  parked : a.seq.picker = .parked → t.seq.picker = .busy
    ∧ t.mech = ⟨some ⟨a.mech.lastNumber + 1, .unpark, none⟩, a.mech.lastNumber + 1, some a.params.stageLimit⟩
  unhomed : a.seq.picker = .unhomed → t.seq.picker = .homing
    ∧ t.mech = ⟨some ⟨a.mech.lastNumber + 1, .home, none⟩, a.mech.lastNumber + 1, some (4 * a.params.stageLimit)⟩
  queue : t.queue = a.queue
  port : t.port = a.port
  link : t.link = a.link

theorem State.jobBegun_order {a : State} {j i : Job} {x : Loc} (hk : i.kind = j.kind)
    (hp : a.seq.picker = .idle ∨ a.seq.picker = .parked ∨ a.seq.picker = .unhomed) :
    OrderBegun a (a.jobBegun j (a.ordered i .busy .travel (some x))) j.kind x := by
  unfold State.jobBegun
  rcases hp with hp | hp | hp <;> rw [hp]
  · exact ⟨congrArg some hk, rfl, fun _ => ⟨rfl, rfl⟩, by simp [hp], by simp [hp], rfl, rfl, rfl⟩
  · exact ⟨rfl, rfl, by simp [hp], fun _ => ⟨rfl, rfl⟩, by simp [hp], rfl, rfl, rfl⟩
  · exact ⟨rfl, rfl, by simp [hp], by simp [hp], fun _ => ⟨rfl, rfl⟩, rfl, rfl, rfl⟩

/-- The first location the job of the entry `e` travels to (R52, R73, R130). -/
def State.FirstTravel (a : State) (e : Entry) (x : Loc) : Prop :=
  (e.kind = .move ∧ e.source = some x) ∨ (e.kind = .stow ∧ e.dest = some x)
    ∨ (e.kind = .scan ∧ ∃ g r, e.scan = some g ∧ g.locs.dropWhile (fun y => !a.callsForOrders y) = x :: r)

/-- The entry is RUNNING, and a STOW holds its cartridge (R52, log entry 22). -/
def State.running (a : State) (e : Entry) : State :=
  { a with
    queue :=
      { a.queue with
        entries := a.queue.entries.map fun x =>
          if x.tag = e.tag then { x with state := .running, held := x.held || e.kind == .stow } else x } }

/-- The locations of a SCAN that call for no order are counted in passing, up to the first that does (R130, R135). -/
theorem State.scanGoesOn_order {v : State} {j : Job} {rest r : List Loc} {x : Loc} (hj : j.interruption = none)
    (hr : rest.dropWhile (fun y => !v.callsForOrders y) = x :: r) (e : Entry) (k : ScanCounts) :
    ∃ i : Job, i.kind = j.kind ∧ v.scanGoesOn j e k rest = v.ordered i .busy .travel (some x) := by
  unfold State.scanGoesOn
  rw [if_neg (by simp [hj])]
  simp only [hr]
  exact ⟨{ j with stage := some (.travel .scan), audit := _ }, rfl, rfl⟩

/-- The job of an entry sends its first TRAVEL where the picker is ready for it. -/
theorem State.entryBegun_order {a : State} {e : Entry} {x : Loc} (hx : a.FirstTravel e x) :
    ∃ j i : Job, j.kind = .entry e.tag ∧ i.kind = j.kind
      ∧ a.entryBegun e = (a.running e).jobBegun j ((a.running e).ordered i .busy .travel (some x)) := by
  rcases hx with ⟨hk, hs⟩ | ⟨hk, hs⟩ | ⟨hk, g, r, hg, hr⟩
  · refine ⟨Job.fresh (.entry e.tag) (e.scan.bind fun g => a.auditOf g.locs),
      { Job.fresh (.entry e.tag) (e.scan.bind fun g => a.auditOf g.locs) with stage := some (.travel .source) }, rfl,
      rfl, ?_⟩
    simp only [State.entryBegun, hk, hs, State.running]
  · refine ⟨Job.fresh (.entry e.tag) (e.scan.bind fun g => a.auditOf g.locs),
      { Job.fresh (.entry e.tag) (e.scan.bind fun g => a.auditOf g.locs) with stage := some (.travel .dest) }, rfl,
      rfl, ?_⟩
    simp only [State.entryBegun, hk, hs, State.running]
  · cases hl : g.locs with
    | nil =>
      rw [hl] at hr
      cases hr
    | cons y ys =>
      rw [hl] at hr
      let v : Audit := ⟨y, ys, a.callsForOrders y, (a.inv.place y).occ, (a.inv.place y).holds, 0, 0, 0⟩
      let j : Job := Job.fresh (.entry e.tag) (some v)
      let taken : State := { a.running e with seq := { a.seq with job := some j, picker := .busy } }
      have haudit : (e.scan.bind fun g => a.auditOf g.locs) = some v := by rw [hg, Option.bind_some, hl]; rfl
      have hbegun : a.entryBegun e = (a.running e).jobBegun j
          (if v.byOrders = true then (a.running e).ordered { j with stage := some (.travel .scan) } .busy .travel (some v.current)
          else taken.scanGoesOn j e v.passed v.rest) := by
        simp only [State.entryBegun, haudit, hk, State.running, Job.fresh, j, taken]
      rw [hbegun]
      by_cases hy : a.callsForOrders y = true
      · rw [List.dropWhile_cons_of_neg (by simp [hy])] at hr
        obtain rfl : y = x := (List.cons.inj hr).1
        exact ⟨j, { j with stage := some (.travel .scan) }, rfl, rfl, by rw [if_pos hy]⟩
      · rw [List.dropWhile_cons_of_pos (by simp [hy])] at hr
        obtain ⟨i, hi, hgo⟩ := State.scanGoesOn_order (v := taken) (j := j) rfl hr e v.passed
        refine ⟨j, i, rfl, hi, ?_⟩
        rw [if_neg hy, hgo]
        rfl

/-- An entry begun is RUNNING, and its first order is sent (R52, R69, R72, R73, R130). -/
theorem State.entryBegun_begun {a : State} {e : Entry} {x : Loc} (hx : a.FirstTravel e x) (hf : a.seq.free = true) :
    OrderBegun (a.running e) (a.entryBegun e) (.entry e.tag) x := by
  obtain ⟨j, i, hj, hi, h⟩ := State.entryBegun_order hx
  rw [h, ← hj]
  exact State.jobBegun_order hi ((Sequencer.free_iff _).1 hf).2

theorem OrderBegun.held {a t : State} {k : JobKind} {x : Loc} (h : OrderBegun a t k x) : t.seq.free = false := by
  rw [← Bool.not_eq_true, Sequencer.free_iff]
  rintro ⟨hj, -⟩
  have hjob := h.job
  rw [hj] at hjob
  cases hjob

/-- The port audit begun travels to cell 0 (R123). -/
theorem State.portAuditBegun_begun {a : State} (hf : a.seq.free = true) :
    OrderBegun { a with port := { a.port with mark := .running } } a.portAuditBegun .portAudit (.cell 0) :=
  State.jobBegun_order rfl ((Sequencer.free_iff _).1 hf).2

/-- The entry that begins, among the entries. -/
theorem State.running_entry {a : State} {e : Entry} (hn : TagsApart a) (he : e ∈ a.queue.entries) :
    (a.running e).entry? e.tag = some { e with state := .running, held := e.held || e.kind == .stow } :=
  State.modEntry_self (f := fun x => { x with state := .running, held := x.held || e.kind == .stow })
    (State.entry_of_mem hn he) fun _ => rfl

/-- The entries of other tags, as one begins. -/
theorem State.running_others (a : State) (e : Entry) {t : Tag} (ht : t ≠ e.tag) : (a.running e).entry? t = a.entry? t := by
  rw [State.entry?_map (s := a) (u := a.running e)
    (f := fun x => if x.tag = e.tag then { x with state := .running, held := x.held || e.kind == .stow } else x)
    (fun x => by split <;> rfl) rfl]
  cases h : a.entry? t with
  | none => rfl
  | some y =>
    have hy : ¬ y.tag = e.tag := by rwa [State.entry?_tag h]
    exact congrArg some (if_neg hy)

theorem State.mem_running_others {a : State} {e y : Entry} (hy : y ∈ a.queue.entries) (ht : y.tag ≠ e.tag) :
    y ∈ (a.running e).queue.entries := List.mem_map.2 ⟨y, hy, if_neg ht⟩

end Sys2Proof.Machine

/-! SUPPORT. The choice that follows a RESUME (R50 to R54, R59, R70, R73, R107). -/

namespace Sys2Proof.Machine

/-! ### What an entry's end leaves to the next choice -/

section
variable (s : State) (l : Link)

theorem State.askNotice_relinked (b : NoticeBody) :
    ∃ m, State.askNotice { s with link := l } b = { s.askNotice b with link := m } := by
  unfold State.askNotice
  dsimp only
  split
  · refine ⟨l.hand ⟨s.notices.next, 1, b⟩, ?_⟩
    cases b <;> rfl
  · exact ⟨l, rfl⟩

/-- The link has no part in an entry's end but to take its notice. -/
theorem State.entryDone_relinked (t : Tag) (r : Result) (c : Option ScanCounts) :
    ∃ m, State.entryDone { s with link := l } t r c = { s.entryDone t r c with link := m } := by
  cases h : s.entry? t with
  | none =>
    refine ⟨l, ?_⟩
    rw [State.entryDone_none h, State.entryDone_none (s := { s with link := l }) h]
  | some e =>
    rw [State.entryDone_some h, State.entryDone_some (s := { s with link := l }) h]
    exact State.askNotice_relinked (s.ended t r c e) l _

end

theorem Bay.forget_state (t : Tag) (b : Bay) : (b.forget t).state = b.state := by
  rw [Bay.forget_eq]
  split <;> rfl

theorem State.forget_bay_state (s : State) (t : Tag) (n : Nat) :
    ((s.bays.map (Bay.forget t)).getD n Bay.noDrive).state = (s.bay n).state := by
  unfold State.bay
  exact (congrArg Bay.state (List.getD_map s.bays Bay.noDrive (Bay.forget t))).trans (Bay.forget_state t _)

section
variable {s : State} {e : Entry} (hn : TagsApart s) (he : e ∈ s.queue.entries) (r : Result)

/-- The end of an entry that has no job leaves the sequencer and what the choices look at beside the entries. -/
theorem State.entryDone_idle (hj : s.seq.job = none) (t : Tag) (r : Result) :
    (s.entryDone t r).seq = s.seq ∧ (s.entryDone t r).mech = s.mech ∧ (s.entryDone t r).params = s.params
      ∧ (s.entryDone t r).port = s.port ∧ (s.entryDone t r).ctl = s.ctl
      ∧ ∀ n, ((s.entryDone t r).bay n).state = (s.bay n).state := by
  cases h : s.entry? t with
  | none =>
    rw [State.entryDone_none h]
    exact ⟨rfl, rfl, rfl, rfl, rfl, fun _ => rfl⟩
  | some e =>
    obtain ⟨a, f, q, hd, -⟩ := State.entryDone_ended h r none
    have hruns : ¬ s.seq.runs t = true := by simp [Sequencer.runs, hj]
    rw [hd]
    refine ⟨if_neg hruns, rfl, rfl, rfl, rfl, fun n => ?_⟩
    exact State.forget_bay_state s t n

theorem State.entryDone_hold (s : State) (t : Tag) (r : Result) (c : Option ScanCounts) :
    (s.entryDone t r c).queue.hold = s.queue.hold := by
  cases h : s.entry? t with
  | none => rw [State.entryDone_none h]
  | some e =>
    obtain ⟨a, f, q, hd, hq⟩ := State.entryDone_ended h r c
    rw [hd]
    rcases hq with rfl | rfl <;> rfl

include hn he

/-- The entry that ends, among the entries. -/
theorem State.entryDone_entry : ((s.entryDone e.tag r).entry? e.tag).map (fun d => (d.identity, d.state, d.result))
    = some (e.identity, .done, some r) := by
  obtain ⟨f, hf, htag, -, hsame⟩ := State.entryDone_entries (State.entry_of_mem hn he) r none
  rw [State.entry?_map htag hf, State.entry_of_mem hn he]
  rcases hsame e rfl with h | h <;> simp [h, Entry.finish, Entry.identity]

/-- The entries after an entry's end: those QUEUED were in the queue, and are not the one that ended. -/
theorem State.entryDone_queued : TagsApart (s.entryDone e.tag r)
    ∧ ∀ y ∈ (s.entryDone e.tag r).queue.entries, y.state = .queued → y ∈ s.queue.entries ∧ y.tag ≠ e.tag := by
  obtain ⟨f, hf, htag, hother, hsame⟩ := State.entryDone_entries (State.entry_of_mem hn he) r none
  refine ⟨?_, fun y hy hq => ?_⟩
  · unfold TagsApart
    rw [hf, List.map_map, show (fun e : Entry => e.tag) ∘ f = fun e => e.tag from funext htag]
    exact hn
  · rw [hf] at hy
    obtain ⟨x, hx, rfl⟩ := List.mem_map.1 hy
    by_cases ht : x.tag = e.tag
    · rcases hsame x ht with h | h <;> (rw [h] at hq; cases hq)
    · rw [hother x ht]
      exact ⟨hx, ht⟩

end

/-! ### The choices of a RESUME -/

/-- RESUME's own effect, the reply apart (R59). -/
def State.released (s : State) : State := { s with queue := { s.queue with hold := false } }

/-- RESUME, taken while the hold flag is set, ends in a choice (R51, R59). -/
theorem exec_resume_chooses {q : Byte} {s : State} (h : s.takes q) (hh : s.queue.hold = true) :
    ∃ l t, t = State.choices (s.queue.entries.length + 1) { s.released with link := l }
      ∧ exec (.resume q []) s = .next { t with link := t.link.startNext } := by
  refine ⟨(s.accepted q |>.ok q 0x0F#8).link, _, rfl, ?_⟩
  have hdue : ∀ l, State.choiceDue s { s.released with link := l } = true := fun l =>
    (State.choiceDue_calls _ _).2 (.inr (.inr (.inr (.inr (.inr (.inr ⟨hh, rfl⟩))))))
  have hsettle : ∀ l, State.settle s { s.released with link := l } =
      { State.choices (s.queue.entries.length + 1) { s.released with link := l } with
        link := (State.choices (s.queue.entries.length + 1) { s.released with link := l }).link.startNext } := by
    intro l
    unfold State.settle State.choose
    rw [if_pos (hdue l)]
    rfl
  rw [← hsettle]
  dsimp only [exec]
  unfold execResume
  exact State.request_taken h _ nil_carried (parse := parseEmpty) rfl _

/-- `t` is at rest after a choice in `s` that selects nothing, the park timer at `p` before it (R70). -/
def RestsAs (s t : State) (p : Option Nat) : Prop :=
  t.seq.job = none ∧ t.mech = s.mech ∧ t.seq.picker = s.seq.picker
    ∧ t.seq.parkTimer = if s.seq.picker = .idle ∧ p = none ∧ s.params.parkDelay ≠ 0 then some s.params.parkDelay else p

theorem State.startPark_rests {s : State} (hj : s.seq.job = none) : RestsAs s s.startPark s.seq.parkTimer := by
  unfold State.startPark
  split
  next hc => exact ⟨hj, rfl, rfl, (if_pos hc).symm⟩
  next hc => exact ⟨hj, rfl, rfl, (if_neg hc).symm⟩

theorem State.startPark_queue (s : State) : s.startPark.queue = s.queue := by
  unfold State.startPark
  split <;> rfl

/-- What a job begun shows of the picker and the mechanism. -/
def BeginsAs (s t : State) (x : Loc) : Prop :=
  t.seq.parkTimer = none
    ∧ (s.seq.picker = .idle → t.seq.picker = .busy
      ∧ t.mech = ⟨some ⟨s.mech.lastNumber + 1, .travel, some x⟩, s.mech.lastNumber + 1, some s.params.stageLimit⟩)
    ∧ (s.seq.picker = .parked → t.seq.picker = .busy
      ∧ t.mech = ⟨some ⟨s.mech.lastNumber + 1, .unpark, none⟩, s.mech.lastNumber + 1, some s.params.stageLimit⟩)
    ∧ (s.seq.picker = .unhomed → t.seq.picker = .homing
      ∧ t.mech = ⟨some ⟨s.mech.lastNumber + 1, .home, none⟩, s.mech.lastNumber + 1, some (4 * s.params.stageLimit)⟩)

theorem OrderBegun.begins {s a t : State} {k : JobKind} {x : Loc} (h : OrderBegun a t k x)
    (ht : a.seq.parkTimer = none) (hp : a.seq.picker = s.seq.picker) (hm : a.mech = s.mech) (hs : a.params = s.params) :
    BeginsAs s t x := by
  obtain ⟨-, hpark, hidle, hparked, hunhomed, -⟩ := h
  rw [hp, hm, hs] at hidle hparked hunhomed
  exact ⟨hpark.trans ht, hidle, hparked, hunhomed⟩

/-! ### The choices of a released queue -/

section
variable {u : State} (hn : TagsApart u) (hf : u.seq.free = true)
  (hl : ∀ e ∈ u.queue.entries, e.state = .queued → ∀ n, e.kind = .move → e.source = some (.bay n) → (u.bay n).state ≠ .loaded)
include hf hl

theorem State.choices_audits (hd : u.auditDue = true) (n : Nat) :
    BeginsAs u (State.choices (n + 1) u) (.cell 0)
      ∧ (State.choices (n + 1) u).port.mark = .running
      ∧ (State.choices (n + 1) u).seq.job.map Job.kind = some .portAudit
      ∧ (State.choices (n + 1) u).queue.entries = u.queue.entries := by
  have hbegun := State.portAuditBegun_begun (a := u.cancelPark) hf
  rw [State.choices_audit hf (State.assertEjects_none hl) n hd, State.startAudit_begun]
  exact ⟨hbegun.begins rfl rfl rfl rfl, congrArg Port.mark hbegun.port, hbegun.job,
    congrArg Queue.entries hbegun.queue⟩

theorem State.choices_rests (hd : u.auditDue = false) (hs : u.queue.entries.find? u.eligible = none) (n : Nat) :
    RestsAs u (State.choices (n + 1) u) u.seq.parkTimer ∧ (State.choices (n + 1) u).queue = u.queue := by
  rw [State.choices_rest hf (State.assertEjects_none hl) n hd hs]
  exact ⟨State.startPark_rests ((Sequencer.free_iff _).1 hf).1, u.startPark_queue⟩

include hn

/-- The entry the choice selects begins, and the choices are over (R51, R52). -/
theorem State.choices_runs (hd : u.auditDue = false) {e : Entry} {x : Loc}
    (hs : u.queue.entries.find? u.eligible = some e) (hc : u.startCheck e = none) (hx : u.FirstTravel e x) (n : Nat) :
    BeginsAs u (State.choices (n + 1) u) x
      ∧ (State.choices (n + 1) u).seq.job.map Job.kind = some (.entry e.tag)
      ∧ (State.choices (n + 1) u).queue = (u.running e).queue
      ∧ (State.choices (n + 1) u).link = u.link := by
  have hbegun := State.entryBegun_begun (a := u.cancelPark) hx hf
  rw [State.choices_begins hf (State.assertEjects_none hl) n hd hs hc,
    State.startEntry_begun (a := u.cancelPark) hn (List.mem_of_find?_eq_some hs), State.choices_held _ _ hbegun.held]
  exact ⟨hbegun.begins rfl rfl rfl rfl, hbegun.job, hbegun.queue, hbegun.link⟩

/-- An entry that ends at its start checks is followed by another choice, which finds the picker as it was (R54). -/
theorem State.choices_passes (hd : u.auditDue = false) {e : Entry} {r : Result}
    (hs : u.queue.entries.find? u.eligible = some e) (hc : u.startCheck e = some r) (n : Nat) {w : State}
    (hw : w = u.cancelPark.entryDone e.tag r) :
    State.choices (n + 1) u = State.choices n w ∧ TagsApart w ∧ w.seq.free = true
      ∧ (∀ y ∈ w.queue.entries, y.state = .queued → ∀ n, y.kind = .move → y.source = some (.bay n) →
        (w.bay n).state ≠ .loaded)
      ∧ w.auditDue = false
      ∧ (w.seq = u.cancelPark.seq ∧ w.mech = u.mech ∧ w.params = u.params)
      ∧ (w.entry? e.tag).map (fun d => (d.identity, d.state, d.result)) = some (e.identity, .done, some r)
      ∧ ∀ y ∈ w.queue.entries, y.state = .queued → y.tag ≠ e.tag := by
  have he : e ∈ u.cancelPark.queue.entries := List.mem_of_find?_eq_some hs
  have hj : u.cancelPark.seq.job = none := ((Sequencer.free_iff _).1 hf).1
  obtain ⟨hseq, hmech, hparams, hport, hctl, hbay⟩ := State.entryDone_idle hj e.tag r
  obtain ⟨hapart, hqueued⟩ := State.entryDone_queued (s := u.cancelPark) hn he r
  have hhold : (u.cancelPark.entryDone e.tag r).queue.hold = u.queue.hold := State.entryDone_hold _ _ _ _
  refine ⟨?_, ?_⟩
  · rw [State.choices_ends hf (State.assertEjects_none hl) n hd hs hc, hw]
  · subst hw
    refine ⟨hapart, by rw [hseq]; exact hf, fun y hy hq n => ?_, ?_, ⟨hseq, hmech, hparams⟩,
      State.entryDone_entry (s := u.cancelPark) hn he r, fun y hy hq => (hqueued y hy hq).2⟩
    · rw [hbay]
      exact hl y (hqueued y hy hq).1 hq n
    · rw [← hd]
      unfold State.auditDue
      rw [hport, hctl, hhold]
      rfl

end

end Sys2Proof.Machine

/-! SUPPORT. An eject asserted stays asserted through the choices that follow it (R50, R107). -/

namespace Sys2Proof.Machine

/-! ### A bay in EJECTING through the choices -/

/-- Bay `n` is as `b`, an eject asserted for the entry of the tag `t`, which waits for it; its location holds `k`. -/
structure EjectWaits (n : Nat) (b : Bay) (t : Tag) (k : Option Label) (v : State) : Prop where
  apart : TagsApart v
  bay : v.bay n = b
  entry : (v.entry? t).map (·.state) = some (.waitingDrive .eject)
  holds : (v.inv.place (.bay n)).holds = k

section
variable {n : Nat} {b : Bay} {t : Tag} {k : Option Label}

theorem EjectWaits.congr {v w : State} (h : EjectWaits n b t k v) (hq : w.queue = v.queue) (hb : w.bays = v.bays)
    (hi : w.inv = v.inv) : EjectWaits n b t k w := by
  obtain ⟨hapart, hbay, hentry, hholds⟩ := h
  unfold TagsApart at hapart
  unfold State.bay at hbay
  unfold State.entry? at hentry
  rw [← hq] at hapart hentry
  rw [← hb] at hbay
  rw [← hi] at hholds
  exact ⟨hapart, hbay, hentry, hholds⟩

/-- The entries that are not QUEUED are not the one that waits. -/
theorem EjectWaits.ne_of_queued {v : State} (h : EjectWaits n b t k v) {e : Entry} (he : e ∈ v.queue.entries)
    (hq : e.state = .queued) : t ≠ e.tag := by
  intro ht
  have hentry := h.entry
  rw [ht, State.entry_of_mem h.apart he, Option.map_some, hq] at hentry
  cases hentry

theorem State.assertEjects_askedOf {u : State} (hn : TagsApart u) : u.assertEjects = u.askedOf u.queue.entries :=
  u.asserts_askedOf _ hn

/-- What the assertions make of an entry. -/
def State.askedEntry (u : State) (y : Entry) : Entry :=
  if u.queue.entries.any (fun e => e.tag == y.tag && (u.ejectFor e).isSome) then { y with state := .waitingDrive .eject }
  else y

theorem State.askedEntry_tag (u : State) (y : Entry) : (u.askedEntry y).tag = y.tag := by
  unfold State.askedEntry
  split <;> rfl

theorem State.assertEjects_entries {u : State} (hn : TagsApart u) :
    u.assertEjects.queue.entries = u.queue.entries.map u.askedEntry := by
  rw [State.assertEjects_askedOf hn]
  rfl

theorem State.assertEjects_apart {u : State} (hn : TagsApart u) : TagsApart u.assertEjects := by
  unfold TagsApart
  rw [State.assertEjects_entries hn, List.map_map, show Entry.tag ∘ u.askedEntry = Entry.tag from funext u.askedEntry_tag]
  exact hn

theorem EjectWaits.asks {v : State} (h : EjectWaits n b t k v) (hb : b.state ≠ .loaded) :
    EjectWaits n b t k v.assertEjects := by
  obtain ⟨hapart, hbay, hentry, hholds⟩ := h
  refine ⟨State.assertEjects_apart hapart, ?_, ?_, ?_⟩
  · have hnone : v.queue.entries.find? (v.asksEject · n) = none := by
      rw [List.find?_eq_none]
      intro e _ he
      obtain ⟨-, hl⟩ := State.ejectFor_some ((v.ejectFor_asks e n).2 he)
      exact hb (hbay ▸ hl)
    rw [State.assertEjects_askedOf hapart, State.askedOf_bay hnone]
    exact hbay
  · rw [State.entry?_map v.askedEntry_tag (State.assertEjects_entries hapart)]
    obtain ⟨y, hy, hstate⟩ := Option.map_eq_some_iff.1 hentry
    rw [hy, Option.map_some, Option.map_some]
    unfold State.askedEntry
    split
    · rfl
    · exact congrArg some hstate
  · rw [State.assertEjects_askedOf hapart]
    exact hholds

theorem Inventory.holds_release (v : Inventory) (xs : List Loc) (t : Tag) (y : Loc) :
    ((v.release xs t).place y).holds = (v.place y).holds := by
  induction xs generalizing v with
  | nil => rfl
  | cons x xs ih =>
    rw [Inventory.release_cons, ih]
    by_cases hxy : x = y
    · subst hxy
      by_cases hx : x ∈ v.locations
      · rw [Inventory.place_modify_same _ hx]
        rfl
      · rw [Inventory.modify_outside _ hx]
    · rw [Inventory.place_modify_ne _ hxy]

theorem EjectWaits.done {v : State} (h : EjectWaits n b t k v) (hb : b.waiting.map (·.1) = some t) {x : Tag} (hx : t ≠ x)
    (r : Result) (c : Option ScanCounts) : EjectWaits n b t k (v.entryDone x r c) := by
  obtain ⟨hapart, hbay, hentry, hholds⟩ := h
  cases hd : v.entry? x with
  | none =>
    rw [State.entryDone_none hd]
    exact ⟨hapart, hbay, hentry, hholds⟩
  | some e =>
    obtain ⟨f, hf, htag, -⟩ := State.entryDone_entries hd r c
    obtain ⟨a, l, q, hended, -⟩ := State.entryDone_ended hd r c
    refine ⟨?_, ?_, ?_, ?_⟩
    · unfold TagsApart
      rw [hf, List.map_map, show Entry.tag ∘ f = Entry.tag from funext htag]
      exact hapart
    · rw [hended]
      refine (List.getD_map v.bays Bay.noDrive (Bay.forget x)).trans ?_
      refine (congrArg (Bay.forget x) hbay).trans ?_
      rw [Bay.forget_eq, if_neg (by simp [hb, hx])]
    · rw [(State.entryDone_others hx r c).1]
      exact hentry
    · rw [hended]
      exact (v.inv.holds_release _ _ _).trans hholds

theorem EjectWaits.jobBegun {v : State} (h : EjectWaits n b t k v) (j : Job) {p : State} (hp : EjectWaits n b t k p) :
    EjectWaits n b t k (v.jobBegun j p) := by
  unfold State.jobBegun
  split
  · exact h.congr rfl rfl rfl
  · exact h.congr rfl rfl rfl
  · exact hp

theorem EjectWaits.scanGoesOn {v : State} (h : EjectWaits n b t k v) (hb : b.waiting.map (·.1) = some t) (j : Job)
    {e : Entry} (he : t ≠ e.tag) (c : ScanCounts) (rest : List Loc) : EjectWaits n b t k (v.scanGoesOn j e c rest) := by
  unfold State.scanGoesOn
  dsimp only
  split
  · exact h.done hb he _ _
  · split
    · exact h.done hb he _ _
    · exact h.congr rfl rfl rfl

theorem EjectWaits.running {v : State} (h : EjectWaits n b t k v) {e : Entry} (he : t ≠ e.tag) :
    EjectWaits n b t k (v.running e) := by
  refine ⟨?_, h.bay, ?_, h.holds⟩
  · unfold TagsApart
    have htags : (v.running e).queue.entries.map Entry.tag = v.queue.entries.map Entry.tag := by
      unfold State.running
      rw [List.map_map]
      exact List.map_congr_left fun x _ => by
        dsimp only [Function.comp_apply]
        split <;> rfl
    rw [htags]
    exact h.apart
  · rw [State.running_others v e he]
    exact h.entry

theorem EjectWaits.begun {v : State} (h : EjectWaits n b t k v) (hb : b.waiting.map (·.1) = some t) {e : Entry}
    (he : t ≠ e.tag) : EjectWaits n b t k (v.entryBegun e) := by
  have hr : EjectWaits n b t k (v.running e) := h.running he
  unfold State.entryBegun
  dsimp only
  refine EjectWaits.jobBegun hr _ ?_
  split
  · exact hr.congr rfl rfl rfl
  · exact hr.congr rfl rfl rfl
  · split
    · exact hr.congr rfl rfl rfl
    · refine EjectWaits.scanGoesOn ?_ hb _ he _ _
      exact hr.congr rfl rfl rfl
  · exact hr.congr rfl rfl rfl

/-- A choice whose own assertions leave the bay waiting leaves it so, whatever it begins or ends. -/
theorem EjectWaits.choice (hb : b.waiting.map (·.1) = some t) (m : Nat) {v : State} (hf : v.seq.free = true)
    (h : EjectWaits n b t k v.assertEjects)
    (ih : ∀ w, EjectWaits n b t k w → EjectWaits n b t k (State.choices m w)) :
    EjectWaits n b t k (State.choices (m + 1) v) := by
  have hpark : EjectWaits n b t k v.assertEjects.cancelPark := h.congr rfl rfl rfl
  cases hd : v.assertEjects.auditDue with
  | true =>
    rw [State.choices_audit hf rfl m hd, State.startAudit_begun]
    unfold State.portAuditBegun
    refine EjectWaits.jobBegun ?_ _ ?_ <;> exact h.congr rfl rfl rfl
  | false =>
    cases hs : v.assertEjects.queue.entries.find? v.assertEjects.eligible with
    | none =>
      rw [State.choices_rest hf rfl m hd hs]
      unfold State.startPark
      split
      · exact h.congr rfl rfl rfl
      · exact h
    | some e =>
      have he : e ∈ v.assertEjects.cancelPark.queue.entries := List.mem_of_find?_eq_some hs
      have hq : e.state = .queued := ((State.eligible_iff _ _).1 (List.find?_some hs)).1
      have hne : t ≠ e.tag := hpark.ne_of_queued he hq
      cases hc : v.assertEjects.startCheck e with
      | none =>
        rw [State.choices_begins hf rfl m hd hs hc, State.startEntry_begun hpark.apart he]
        exact ih _ (hpark.begun hb hne)
      | some r =>
        rw [State.choices_ends hf rfl m hd hs hc]
        exact ih _ (hpark.done hb hne _ _)

/-- Neither a choice nor what it begins or ends touches a bay that waits for its eject. -/
theorem EjectWaits.choices (hb : b.waiting.map (·.1) = some t) (hl : b.state ≠ .loaded) (m : Nat) :
    ∀ v : State, EjectWaits n b t k v → EjectWaits n b t k (State.choices m v) := by
  induction m with
  | zero => exact fun v h => h
  | succ m ih =>
    intro v h
    cases hf : v.seq.free with
    | false =>
      rw [State.choices_held _ _ hf]
      exact h
    | true => exact EjectWaits.choice hb m hf (h.asks hl) ih

end

/-! ### The eject a choice asserts -/

/-- The entry that a choice asserts eject for waits for its bay (R50, R107). -/
theorem State.assertEjects_waits {u : State} (hn : TagsApart u) {e : Entry} (he : e ∈ u.queue.entries) {n : Nat}
    (ha : u.asksEject e n = true) :
    EjectWaits n
      { u.bay n with
        state := .ejecting, eject := true, ejectTimer := some u.params.ejectLimit, waiting := some (e.tag, .eject) }
      e.tag (u.inv.place (.bay n)).holds u.assertEjects := by
  have hloaded : (u.bay n).state = .loaded := (State.ejectFor_some ((u.ejectFor_asks e n).2 ha)).2
  obtain ⟨o, ho⟩ : ∃ o, u.queue.entries.find? (u.asksEject · n) = some o :=
    Option.isSome_iff_exists.1 (List.find?_isSome.2 ⟨e, he, ha⟩)
  have hasks : u.asksEject o n = true := List.find?_some (p := (u.asksEject · n)) ho
  have htag : o.tag = e.tag := State.asksEject_tag hasks ha
  refine ⟨State.assertEjects_apart hn, ?_, ?_, ?_⟩
  · rw [State.assertEjects_askedOf hn, ← htag]
    unfold State.bay at hloaded ⊢
    unfold State.askedOf
    simp only [List.getD_eq_getElem?_getD, List.getElem?_mapIdx] at hloaded ⊢
    cases hbay : u.bays[n]? with
    | none =>
      rw [hbay] at hloaded
      cases hloaded
    | some b => simp [ho]
  · rw [State.entry?_map u.askedEntry_tag (State.assertEjects_entries hn), State.entry_of_mem hn he]
    have hany : u.queue.entries.any (fun x => x.tag == e.tag && (u.ejectFor x).isSome) = true :=
      List.any_eq_true.2 ⟨e, he, by simp [(u.ejectFor_asks e n).2 ha]⟩
    simp [State.askedEntry, hany]
  · rw [State.assertEjects_askedOf hn]
    rfl

end Sys2Proof.Machine

/-! SUPPORT. The choice after a MOVE is accepted and after a RESUME, and the statement about both (R43, R49 to R54, R59,
R68 to R73, R107). -/

namespace Sys2Proof.Machine

/-! ### A MOVE accepted with nothing before it -/

/-- A bay that a MOVE's destination resolves to has a drive. -/
theorem State.resolve_dest_bay {s : State} {r : Ref} {n : Nat} (h : s.resolve .moveDest r = .ok (.bay n)) :
    (s.bay n).state ≠ .absent := by
  cases r with
  | bay m =>
    have hm : s.resolveBay m = .ok (.bay n) := h
    unfold State.resolveBay at hm
    split at hm
    next hb =>
      cases hm
      exact hb.2
    next => cases hm
  | logical m =>
    have hm : s.resolveLogical m = .ok (.bay n) := h
    unfold State.resolveLogical at hm
    split at hm
    · split at hm <;> cases hm
    · cases hm
  | physical m =>
    simp only [State.resolve] at h
    split_ifs at h
    cases h
  | port m =>
    simp only [State.resolve] at h
    split_ifs at h
    cases h
  | label l => cases h
  | gripper m => cases h

theorem State.destStart_none {s : State} {d : Loc} (ho : (s.inv.place d).occ = .empty) (hr : s.destRefusal d = none)
    (hb : ∀ n, d = .bay n → (s.bay n).state ≠ .absent) : s.destStart d = none := by
  rw [State.destStart_eq, if_neg (by simp [ho])]
  cases d with
  | slot p =>
    have hret : ¬ s.map.retired p = true := fun hret => by simp [State.destRefusal, hret] at hr
    exact if_neg hret
  | bay n => exact if_neg (hb n rfl)
  | cell n | gripper => rfl

/-- A record of a location out of the location set is UNKNOWN, so one that is not is in it. -/
theorem Inventory.mem_of_known {v : Inventory} {x : Loc} (h : (v.place x).occ ≠ .unknown) : x ∈ v.locations := by
  by_contra hx
  rw [Inventory.place_outside _ hx] at h
  exact h rfl

/-- The one QUEUED entry, when it is the last, is the one a choice selects. -/
theorem find?_append_last {α : Type} {p : α → Bool} {l : List α} {x : α} (h : ∀ y ∈ l, p y = false) (hx : p x = true) :
    (l ++ [x]).find? p = some x := by
  rw [List.find?_append, List.find?_eq_none.2 (fun y hy => by simp [h y hy])]
  simp [hx]

/-- The entry of a MOVE as it is accepted (R43). -/
def MoveBody.entry (b : MoveBody) (x d : Loc) (n : Word32) : Entry :=
  { Entry.fresh b.tag .move with
    source := some x, dest := some d, expected := b.expected, verify := b.verify, skipLabel := b.skipLabel,
    accNumber := n, state := .queued }

/-- The part with a MOVE accepted and QUEUED, its reply apart. -/
def State.joined (s : State) (b : MoveBody) (x d : Loc) : State :=
  { s with
    queue :=
      { s.queue with
        entries := s.queue.entries ++ [b.entry x d (s.queue.accepted + 1)], accepted := s.queue.accepted + 1 },
    inv := s.inv.claim [x, d] b.tag }

/-- A MOVE that is accepted, QUEUED, is followed by a choice (R43, R51). -/
theorem exec_move_chooses {q : Byte} {s : State} {b : MoveBody} {x d : Loc} (ht : s.takes q) (hw : b.wellFormed = true)
    (ha : s.tryMove b = .ok (b.entry x d 0))
    (hport : x.isCell = true ∨ d.isCell = true → s.port.state = .secured) :
    ∃ l t, l.cache = some (replyFrame q 0x06#8 .accepted (be32 (s.queue.accepted + 1)))
      ∧ t = State.choices (s.queue.entries.length + 2) { s.joined b x d with link := l }
      ∧ exec (.move q b.bytes) s = .next { t with link := t.link.startNext } := by
  have hqueued : (if [x, d].any Loc.isCell && s.port.state != .secured then EntryState.waitingPort else .queued)
      = .queued := by
    refine if_neg fun h => ?_
    simp only [List.any_cons, List.any_nil, Bool.or_false, Bool.and_eq_true, Bool.or_eq_true, bne_iff_ne] at h
    exact h.2 (hport h.1)
  have haccept := (s.accepted q).accept_eq q (e := b.entry x d 0) (xs := [x, d]) rfl rfl
  have hlink : ∃ l : Link, l.cache = some (replyFrame q 0x06#8 .accepted (be32 (s.queue.accepted + 1)))
      ∧ (s.accepted q).conclude q 0x06#8 ((s.accepted q).tryMove b) = { s.joined b x d with link := l } := by
    rw [State.tryMove_accepted, ha]
    have hport' : (s.accepted q).port = s.port := rfl
    rw [hport', hqueued] at haccept
    exact ⟨((s.accepted q).reply q 0x06#8 .accepted (be32 (s.queue.accepted + 1))).link, rfl, haccept⟩
  obtain ⟨l, hl, hu⟩ := hlink
  refine ⟨l, _, hl, rfl, ?_⟩
  have hdue : State.choiceDue s { s.joined b x d with link := l } = true :=
    (State.choiceDue_calls _ _).2 (.inr (.inl (by simp [State.joined])))
  have hsettle : State.settle s { s.joined b x d with link := l } =
      { State.choices (s.queue.entries.length + 2) { s.joined b x d with link := l } with
        link := (State.choices (s.queue.entries.length + 2) { s.joined b x d with link := l }).link.startNext } := by
    have hlen : (s.joined b x d).queue.entries.length = s.queue.entries.length + 1 := by simp [State.joined]
    unfold State.settle State.choose
    rw [if_pos hdue, hlen]
  rw [← hsettle, ← hu]
  dsimp only [exec]
  unfold execMove
  exact State.request_taken ht _ (MoveBody.bytes_length hw) (parseMove_bytes hw) _

/-- A tag of no entry is apart from those there are. -/
theorem TagsApart.append {s : State} (hn : TagsApart s) {e : Entry} (he : s.entry? e.tag = none) :
    ((s.queue.entries ++ [e]).map Entry.tag).Nodup := by
  have hfresh : ∀ x ∈ s.queue.entries, x.tag ≠ e.tag := by
    simpa [State.entry?] using he
  rw [List.map_append, List.map_singleton]
  refine List.Nodup.append hn (List.nodup_singleton _) ?_
  rw [List.disjoint_singleton]
  intro hmem
  obtain ⟨x, hx, ht⟩ := List.mem_map.1 hmem
  exact hfresh x hx ht

section
variable {s : State} {b : MoveBody} {x d : Loc} (hne : x ≠ d)
include hne

/-- Acceptance claims a location of the MOVE that nothing has claimed, and leaves what is at it (R43). -/
theorem State.joined_place {y : Loc} (hy : y ∈ [x, d]) (hknown : (s.inv.place y).occ ≠ .unknown)
    (hclaims : (s.inv.place y).claims = []) :
    (s.joined b x d).inv.place y = { s.inv.place y with claims := [b.tag] } := by
  refine (s.inv.place_claim (xs := [x, d]) (by simpa using hne) b.tag y).trans ?_
  rw [if_pos ⟨hy, Inventory.mem_of_known hknown⟩, hclaims]
  rfl

/-- The choice after such an acceptance begins the MOVE (R49, R51, R52). -/
theorem State.joined_runs (l : Link) (hn : TagsApart s) (hm : s.ctl.mode = .ready ∨ s.ctl.mode = .maintenance)
    (hh : s.queue.hold = false) (hf : s.seq.free = true) (he : s.entry? b.tag = none)
    (hq : ∀ e ∈ s.queue.entries, e.state ≠ .queued) (hd : s.resolve .moveDest b.dest = .ok d)
    (hr : s.destRefusal d = none) (hp : s.port.state ≠ .auditPending ∨ s.port.mark ≠ .pending)
    (hxo : (s.inv.place x).occ = .occupied) (hdo : (s.inv.place d).occ = .empty)
    (hxc : (s.inv.place x).claims = []) (hdc : (s.inv.place d).claims = [])
    (hb : ∀ n, x = .bay n → (s.bay n).state = .ejected ∨ (s.bay n).state = .empty ∨ (s.bay n).state = .absent) (n : Nat) :
    let t := State.choices (n + 1) { s.joined b x d with link := l }
    BeginsAs s t x ∧ t.seq.job.map Job.kind = some (.entry b.tag)
      ∧ (t.entry? b.tag).map (fun e => (e.state, e.source, e.dest)) = some (.running, some x, some d)
      ∧ t.link = l := by
  generalize hu : ({ s.joined b x d with link := l } : State) = u
  have hnew : b.entry x d (s.queue.accepted + 1) ∈ u.queue.entries := by
    subst hu
    exact List.mem_append_right _ (List.mem_singleton.2 rfl)
  have hx : u.inv.place x = { s.inv.place x with claims := [b.tag] } := by
    subst hu
    exact State.joined_place hne (by simp) (by simp [hxo]) hxc
  have hdst : u.inv.place d = { s.inv.place d with claims := [b.tag] } := by
    subst hu
    exact State.joined_place hne (by simp) (by simp [hdo]) hdc
  have hapart : TagsApart u := by
    subst hu
    exact hn.append (e := b.entry x d (s.queue.accepted + 1)) he
  have hloaded : ∀ e ∈ u.queue.entries, e.state = .queued → ∀ n, e.kind = .move → e.source = some (.bay n) →
      (u.bay n).state ≠ .loaded := by
    subst hu
    intro e hmem hqueued n _ hsrc
    rcases List.mem_append.1 hmem with hold | hlast
    · exact absurd hqueued (hq e hold)
    · obtain rfl := List.mem_singleton.1 hlast
      have hstate := hb n (Option.some.inj hsrc)
      show (s.bay n).state ≠ .loaded
      rcases hstate with h | h | h <;> simp [h]
  have hnodue : u.auditDue = false := by
    subst hu
    rw [← Bool.not_eq_true, State.auditDue_iff]
    rintro ⟨hpend, hmark, -⟩
    rcases hp with h | h
    · exact h hpend
    · exact h hmark
  have helig : u.eligible (b.entry x d (s.queue.accepted + 1)) = true := by
    rw [State.eligible_iff]
    refine ⟨rfl, fun y hy => ?_, nofun, fun _ => by subst hu; exact hm, by subst hu; exact hh, fun n _ hsrc => ?_⟩
    · have hy' : y = x ∨ y = d := by simpa [Entry.names, MoveBody.entry, Entry.fresh] using hy
      rcases hy' with rfl | rfl
      · rw [hx]
        rfl
      · rw [hdst]
        rfl
    · subst hu
      exact hb n (Option.some.inj hsrc)
  have hsel : u.queue.entries.find? u.eligible = some (b.entry x d (s.queue.accepted + 1)) := by
    subst hu
    refine find?_append_last (fun y hy => ?_) helig
    rw [← Bool.not_eq_true, State.eligible_iff]
    exact fun h => hq y hy h.1
  have hcheck : u.startCheck (b.entry x d (s.queue.accepted + 1)) = none := by
    have hstart : u.destStart d = none := by
      refine State.destStart_none (by rw [hdst]; exact hdo) ?_ fun n hdn => ?_
      · subst hu
        exact hr
      · subst hu hdn
        exact State.resolve_dest_bay hd
    rw [State.startCheck_move u rfl rfl rfl, hx, hdst, hstart]
    simp [hxo, hdo]
  obtain ⟨hbegins, hjob, hqueue, hlink⟩ := State.choices_runs hapart (by subst hu; exact hf) hloaded hnodue hsel hcheck
    (.inl ⟨rfl, rfl⟩) n
  refine ⟨by subst hu; exact hbegins, hjob, ?_, hlink.trans (by subst hu; rfl)⟩
  have hentry : (State.choices (n + 1) u).entry? b.tag = (u.running (b.entry x d (s.queue.accepted + 1))).entry? b.tag :=
    State.entry?_of_queue hqueue _
  rw [hentry]
  exact congrArg (Option.map _) (State.running_entry hapart hnew)

end

/-! ### A RESUME that asserts an eject, or lets an entry end at its start checks -/

theorem State.asksEject_of {u : State} {e : Entry} {n : Nat} (hq : e.state = .queued) (hk : e.kind = .move)
    (hs : e.source = some (.bay n)) (hb : (u.bay n).state = .loaded)
    (hc : ∀ x ∈ e.names, (u.inv.place x).claims.head? = some e.tag) (hm : u.ctl.mode = .ready ∨ u.ctl.mode = .maintenance)
    (hh : u.queue.hold = false) : u.asksEject e n = true := by
  simp only [State.asksEject, Bool.and_eq_true, Bool.or_eq_true, beq_iff_eq, List.all_eq_true, Bool.not_eq_true']
  exact ⟨⟨⟨⟨⟨⟨hq, hk⟩, hs⟩, hb⟩, hc⟩, hm⟩, hh⟩

/-- An eject the choices begin with is asserted when they are over (R50, R107). -/
theorem State.choices_ejects {u : State} (hn : TagsApart u) (hf : u.seq.free = true) {e : Entry}
    (he : e ∈ u.queue.entries) {n : Nat} (ha : u.asksEject e n = true) (m : Nat) :
    EjectWaits n
      { u.bay n with
        state := .ejecting, eject := true, ejectTimer := some u.params.ejectLimit, waiting := some (e.tag, .eject) }
      e.tag (u.inv.place (.bay n)).holds (State.choices (m + 1) u) := by
  refine EjectWaits.choice rfl m hf (State.assertEjects_waits hn he ha) (EjectWaits.choices rfl ?_ m)
  exact BayState.noConfusion

/-- A state at rest, or a job begun, looks the same from a state with the same picker, mechanism and parameters. -/
theorem RestsAs.congr {a s t : State} {p : Option Nat} (h : RestsAs a t p) (hp : a.seq.picker = s.seq.picker)
    (hm : a.mech = s.mech) (hs : a.params = s.params) : RestsAs s t p := by
  unfold RestsAs at h ⊢
  rwa [hp, hm, hs] at h

theorem BeginsAs.congr {a s t : State} {x : Loc} (h : BeginsAs a t x) (hp : a.seq.picker = s.seq.picker)
    (hm : a.mech = s.mech) (hs : a.params = s.params) : BeginsAs s t x := by
  unfold BeginsAs at h ⊢
  rwa [hp, hm, hs] at h

/-- The entry begun is RUNNING after the choices (R52). -/
theorem State.running_after {u t : State} {e : Entry} (hn : TagsApart u) (he : e ∈ u.queue.entries)
    (hq : t.queue = (u.running e).queue) :
    (t.entry? e.tag).map (fun d => (d.identity, d.state)) = some (e.identity, .running) := by
  rw [State.entry?_of_queue hq, State.running_entry hn he]
  rfl

/-! ### O24 -/

/-- Settles O24. -/
theorem choiceAndStartChecks : Obligations.ChoiceAndStartChecks := by
  refine ⟨Sequencer.free_iff, fun s e d hd => ?checks, fun s e => s.startCheck_scan, ?move, ?eject, State.eligible_iff,
    ?resume⟩
  case checks =>
    intro rest
    have hrest : s.destStart d = rest := s.destStart_eq d
    rw [← hrest]
    exact ⟨fun x hk hx => s.startCheck_move hk hx hd, fun hk => s.startCheck_stow hk hd⟩
  case move =>
    intro q s b x d ht hw hn hm hh hf hp he hl hq hx hd hne hr hport haudit hxo hdo hxc hdc hb
    have hmode : s.ctl.mode ≠ .faulted := by rcases hm with h | h <;> simp [h]
    obtain ⟨l, t, hcache, hteq, hexec⟩ :=
      exec_move_chooses ht hw (State.tryMove_ok hmode he hl hx hd hne hr) hport
    obtain ⟨⟨hpark, hidle, -⟩, hjob, hentry, hlink⟩ := State.joined_runs (b := b) hne l hn hm hh hf he hq hd hr haudit hxo
      hdo hxc hdc hb (s.queue.entries.length + 1)
    rw [← hteq] at hpark hidle hjob hentry hlink
    obtain ⟨hbusy, hmech⟩ := hidle hp
    exact ⟨_, hexec, (t.link.startNext_keeps.1).trans (hlink ▸ hcache), hentry, hjob, hbusy, hpark, hmech⟩
  case eject =>
    intro q s e n ht hn hh hf hm he hq hk hsrc hb hclaims
    obtain ⟨l, t, hteq, hexec⟩ := exec_resume_chooses ht hh
    generalize hu : ({ s.released with link := l } : State) = u at hteq
    have hasks : u.asksEject e n = true := by
      subst hu
      exact State.asksEject_of (u := { s.released with link := l }) hq hk hsrc hb hclaims hm rfl
    have hwaits := State.choices_ejects (u := u) (by subst hu; exact hn) (by subst hu; exact hf) (by subst hu; exact he)
      hasks s.queue.entries.length
    rw [← hteq] at hwaits
    obtain ⟨-, hbay, hentry, hholds⟩ := hwaits
    have hbay' : State.bay { t with link := t.link.startNext } n = _ := hbay
    refine ⟨_, hexec, ?_⟩
    rw [hbay']
    subst hu
    exact ⟨rfl, rfl, rfl, rfl, hentry, hholds⟩
  case resume =>
    intro q s ht hn hh hf hl on next due sent begins runs rests ends
    obtain ⟨l, t, hteq, hexec⟩ := exec_resume_chooses ht hh
    generalize hu : ({ s.released with link := l } : State) = u at hteq
    have hdue : u.auditDue = true ↔ due := by
      subst hu
      rw [State.auditDue_iff, LibMode.serves_eq, Bool.or_eq_true, beq_iff_eq, beq_iff_eq]
      exact ⟨fun ⟨h1, h2, h3, _⟩ => ⟨h1, h2, h3⟩, fun ⟨h1, h2, h3⟩ => ⟨h1, h2, h3, rfl⟩⟩
    have hnodue : ¬ due → u.auditDue = false := fun h => Bool.not_eq_true _ ▸ (not_congr hdue).2 h
    have hapart : TagsApart u := by subst hu; exact hn
    have hfree : u.seq.free = true := by subst hu; exact hf
    have hloaded : ∀ e ∈ u.queue.entries, e.state = .queued → ∀ n, e.kind = .move → e.source = some (.bay n) →
        (u.bay n).state ≠ .loaded := by
      subst hu
      exact fun e he _ => hl e he
    refine ⟨fun hd => ?due, fun hd hs => ?nothing, fun e x hd hs hc hx => ?begins, fun e r hd hs hc => ?ends⟩
    case due =>
      obtain ⟨hbegins, hmark, hjob, hentries⟩ :=
        State.choices_audits hfree hloaded (hdue.2 hd) s.queue.entries.length
      rw [← hteq] at hbegins hmark hjob hentries
      subst hu
      exact ⟨_, hexec, hbegins, hmark, hjob, hentries⟩
    case nothing =>
      obtain ⟨hrests, hqueue⟩ :=
        State.choices_rests hfree hloaded (hnodue hd) (by subst hu; exact hs) s.queue.entries.length
      have hentries := congrArg Queue.entries hqueue
      rw [← hteq] at hrests hentries
      subst hu
      exact ⟨_, hexec, hrests, hentries⟩
    case begins =>
      obtain ⟨hbegins, hjob, hqueue, -⟩ := State.choices_runs hapart hfree hloaded (hnodue hd) (by subst hu; exact hs)
        (by subst hu; exact hc) (by subst hu; exact hx) s.queue.entries.length
      rw [← hteq] at hbegins hjob hqueue
      have hrun := State.running_after hapart (by subst hu; exact List.mem_of_find?_eq_some hs) hqueue
      have hothers : ∀ y ∈ u.queue.entries, y.tag ≠ e.tag → y ∈ t.queue.entries :=
        fun y hy hne => hqueue ▸ State.mem_running_others hy hne
      subst hu
      exact ⟨_, hexec, hbegins, ⟨hjob, hrun⟩, hothers⟩
    case ends =>
      intro v
      have hsel : u.queue.entries.find? u.eligible = some e := by subst hu; exact hs
      have hmem : e ∈ s.queue.entries := List.mem_of_find?_eq_some hs
      obtain ⟨k, hk⟩ : ∃ k, s.queue.entries.length = k + 1 := Nat.exists_eq_add_one.2 (List.length_pos_of_mem hmem)
      obtain ⟨m, hm⟩ : ∃ m, u.cancelPark.entryDone e.tag r = { v with link := m } := by
        subst hu
        exact on.entryDone_relinked l e.tag r none
      obtain ⟨hpass, hwn, hwf, hwl, hwd, ⟨hseq, hmech, hparams⟩, hended, hqueued⟩ := State.choices_passes hapart hfree
        hloaded (hnodue hd) hsel (by subst hu; exact hc) s.queue.entries.length hm.symm
      generalize hw : ({ v with link := m } : State) = w at hpass hwn hwf hwl hwd hseq hmech hparams hended hqueued
      have hpicker : w.seq.picker = s.seq.picker := by rw [hseq]; subst hu; rfl
      have hpark : w.seq.parkTimer = none := by rw [hseq]; rfl
      have hmech' : w.mech = s.mech := by rw [hmech]; subst hu; rfl
      have hparams' : w.params = s.params := by rw [hparams]; subst hu; rfl
      rw [hpass, hk] at hteq
      refine ⟨fun hv => ?_, fun d x hv hcd hx => ?_⟩
      · obtain ⟨hrests, hqueue⟩ := State.choices_rests hwf hwl hwd (by subst hw; exact hv) k
        rw [← hteq] at hrests hqueue
        rw [← State.entry?_of_queue hqueue] at hended
        exact ⟨_, hexec, hended, hpark ▸ hrests.congr hpicker hmech' hparams'⟩
      · have hfound : w.queue.entries.find? w.eligible = some d := by subst hw; exact hv
        have hdm : d ∈ w.queue.entries := List.mem_of_find?_eq_some hfound
        have hne : e.tag ≠ d.tag := (hqueued d hdm ((State.eligible_iff _ _).1 (List.find?_some hfound)).1).symm
        obtain ⟨hbegins, hjob, hqueue, -⟩ := State.choices_runs hwn hwf hwl hwd hfound (by subst hw; exact hcd)
          (x := x) (hx.imp id .inl) k
        rw [← hteq] at hbegins hjob hqueue
        have hrun := State.running_after hwn hdm hqueue
        rw [← State.running_others w d hne, ← State.entry?_of_queue hqueue] at hended
        exact ⟨_, hexec, hended, hbegins.congr hpicker hmech' hparams', hjob, hrun⟩

end Sys2Proof.Machine
